-- ==== Sys2Proof/Word.lean ====
section
/-! DEFINITION. The word types of the block (00_scope.md section 4) and the four-element array every register group has. -/

namespace Sys2Proof

/-- A byte, 8 bits. -/
abbrev Byte := BitVec 8

/-- A word, 32 bits: the width of the port and of every data register (DATA_WIDTH, 00_scope.md section 3). -/
abbrev Word := BitVec 32

/-- A word index into the register space, 0x000 to 0x3FF (R40). -/
abbrev Widx := BitVec 10

/-- A transaction word (R60): dir [42], widx [41:32], wdata [31:0]. -/
abbrev T43 := BitVec 43

/-- Four things in index order 0 to 3: the shape of KEY, NONCE, DIN and DOUT (R10), of a word's four bytes, and
of a 16-byte block seen as four columns (R122). -/
@[ext] structure Four (α : Type) where
  /-- element 0 -/
  x0 : α
  /-- element 1 -/
  x1 : α
  /-- element 2 -/
  x2 : α
  /-- element 3 -/
  x3 : α
deriving DecidableEq, Repr

/-- A group of four 32-bit registers (R10). -/
abbrev Quad := Four Word

/-- Four bytes in sequence order: what be32 makes of a word (00_scope.md section 4). -/
abbrev Col := Four Byte

/-- A 16-byte sequence: byte 4i+j of the sequence is element j of element i. That is the packing of R11, R14, R15 and
R16 (word i of a register group gives bytes 4i to 4i+3) and the AES state array of R122 (row r of column c is byte r+4c). -/
abbrev Blk := Four Col

end Sys2Proof
end

