-- ==== Sys2Proof/Config.lean ====
section
/-! DEFINITION. The implementation parameters of 00_scope.md section 3: the two open ones as opaque constants, the fixed ones with their values. -/

namespace Sys2Proof

/-- CRC_TABLE, the fixed 256-entry table of R148. OPEN in the spec (92 D15): no body, so a statement about it holds for
every table. It is no state and nothing writes it (R21). DESIGN CHOICE of form only, log entry 4. -/
opaque Config.crcTable : Byte → Word

/-- BASE, the host address at which the register window begins. OPEN in the spec (92 D24); no step depends on it (R48).
Log entry 4. -/
opaque Config.base : Nat

/-- BLOCK_BYTES: the cipher works on blocks of 16 bytes. -/
def Config.blockBytes : Nat := 16

/-- PAD_BYTE: the filler of a short last block. -/
def Config.padByte : Byte := 0xFF

/-- CRC_INIT: the accumulator before the first byte. -/
def Config.crcInit : Word := 0xFFFFFFFF

/-- CRC_XOROUT: what the accumulator is XORed with to give the result (the final bitwise NOT). -/
def Config.crcXorOut : Word := 0xFFFFFFFF

/-- WINDOW_WORDS: how many word locations the window has (R40). -/
def Config.windowWords : Nat := 1024

end Sys2Proof
end

