-- ==== Sys2Proof/Syntax.lean ====
section
/-! DEFINITION. The instruction set: the host transactions of R61 and R65, one constructor per row of
spec/opcode_table.json, and the register names of R26 with the notation of R68. -/

namespace Sys2Proof

/-- One transaction, decoded. The direction and the register are in the constructor; its arguments are the operands of
R62 and, where a write has reserved data bits (R64), those bits too, since what they hold decides what it does.
The data word of a read and of a wrong-direction access is ignored (R60, R65) and not kept. -/
inductive Instr where
  /-- WR.KEY i, v (R80) -/
  | wrKey (i : Fin 4) (v : Word)
  /-- WR.NONCE i, v (R81) -/
  | wrNonce (i : Fin 4) (v : Word)
  /-- RD.NONCE i (R82) -/
  | rdNonce (i : Fin 4)
  /-- WR.DIN i, v (R83) -/
  | wrDin (i : Fin 4) (v : Word)
  /-- RD.DIN i (R84) -/
  | rdDin (i : Fin 4)
  /-- RD.DOUT i (R85) -/
  | rdDout (i : Fin 4)
  /-- WR.GO (R86): the reserved bits wdata[31:5], then LEN = wdata[4:0] -/
  | wrGo (rsvd : BitVec 27) (len : BitVec 5)
  /-- WR.CTRL (R91): the reserved bits wdata[31:1], then CLR = wdata[0] -/
  | wrCtrl (rsvd : BitVec 31) (clr : Bool)
  /-- WR.CRC_DATA (R141): the reserved bits wdata[31:8], then BYTE = wdata[7:0] -/
  | wrCrcData (rsvd : BitVec 24) (byte : Byte)
  /-- RD.CRC_ACC (R142) -/
  | rdCrcAcc
  /-- RD.CRC_RESULT (R143) -/
  | rdCrcResult
  /-- WR.CRC_CTRL (R140): the reserved bits wdata[31:1], then INIT = wdata[0] -/
  | wrCrcCtrl (rsvd : BitVec 31) (init : Bool)
  /-- RD.STATUS (R160) -/
  | rdStatus
  /-- RD.CRC_TABLE idx (R144) -/
  | rdCrcTable (idx : Byte)
  /-- read of KEY i (R65) -/
  | illegalRdKey (i : Fin 4)
  /-- write of DOUT i (R65) -/
  | illegalWrDout (i : Fin 4)
  /-- read of GO (R65) -/
  | illegalRdGo
  /-- read of CTRL (R65) -/
  | illegalRdCtrl
  /-- read of CRC_DATA (R65) -/
  | illegalRdCrcData
  /-- write of CRC_ACC (R65) -/
  | illegalWrCrcAcc
  /-- write of CRC_RESULT (R65) -/
  | illegalWrCrcResult
  /-- read of CRC_CTRL (R65) -/
  | illegalRdCrcCtrl
  /-- write of STATUS (R65) -/
  | illegalWrStatus
  /-- write of CRC_TABLE[idx] (R65) -/
  | illegalWrCrcTable (idx : Byte)
deriving DecidableEq, Repr

/-- The names of the register map R26. -/
inductive Reg where
  | key (i : Fin 4)
  | nonce (i : Fin 4)
  | din (i : Fin 4)
  | dout (i : Fin 4)
  | go
  | ctrl
  | crcData
  | crcAcc
  | crcResult
  | crcCtrl
  | status
  | crcTable (idx : Byte)
deriving DecidableEq, Repr

/-- The access column of R26, as the host sees it: write-only, read-only, read-write. -/
inductive Access where
  | wo
  | ro
  | rw
deriving DecidableEq, Repr

/-- What a line of the notation R68 names: a register, or a literal word index (written @0xNNN, needed for an illegal
access). -/
inductive AsmTarget where
  | reg (r : Reg)
  | index (w : Widx)
deriving DecidableEq, Repr

/-- One line of the notation R68: wr <REG>, <value> or rd <REG>. -/
inductive AsmLine where
  | wr (target : AsmTarget) (v : Word)
  | rd (target : AsmTarget)
deriving DecidableEq, Repr

end Sys2Proof
end

