-- ==== Sys2Proof/WellFormed.lean ====
section
/-! DEFINITION. Which transactions are well formed: legal selector (R61), reserved data bits 0 (R64), LEN in its legal
values (R62). An ill-formed transaction is decoded, encoded and executed all the same: what it does is a fault the spec
describes. -/

namespace Sys2Proof

/-- The legal values of R62 and R64 and the legal rows of R61. The field types already bound i, idx, v and BYTE. -/
def Instr.wellFormed : Instr → Bool
  | .wrKey _ _ => true
  | .wrNonce _ _ => true
  | .rdNonce _ => true
  | .wrDin _ _ => true
  | .rdDin _ => true
  | .rdDout _ => true
  | .wrGo rsvd len => rsvd == 0 && (1 ≤ len.toNat && len.toNat ≤ 16)
  | .wrCtrl rsvd _ => rsvd == 0
  | .wrCrcData rsvd _ => rsvd == 0
  | .rdCrcAcc => true
  | .rdCrcResult => true
  | .wrCrcCtrl rsvd _ => rsvd == 0
  | .rdStatus => true
  | .rdCrcTable _ => true
  | .illegalRdKey _ => false
  | .illegalWrDout _ => false
  | .illegalRdGo => false
  | .illegalRdCtrl => false
  | .illegalRdCrcData => false
  | .illegalWrCrcAcc => false
  | .illegalWrCrcResult => false
  | .illegalRdCrcCtrl => false
  | .illegalWrStatus => false
  | .illegalWrCrcTable _ => false

/-- The same as a proposition. -/
abbrev Instr.WellFormed (i : Instr) : Prop := i.wellFormed = true

end Sys2Proof
end

