-- ==== Sys2Proof/Decode.lean ====
section
/-! DEFINITION. The transaction word T43 (R60), the register map (R26), the decoder (R61, R65, R63), the encoder, and how
a host access to the window becomes a transaction (R26, R45). -/

namespace Sys2Proof

/-! ### The format T43 (R60) -/

/-- T = dir[42], widx[41:32], wdata[31:0]; dir is 1 (true) for a write. -/
def T43.pack (dir : Bool) (widx : Widx) (wdata : Word) : T43 := BitVec.ofBool dir ++ widx ++ wdata

/-- T[42] -/
def T43.dir (t : T43) : Bool := t.getLsbD 42

/-- T[41:32] -/
def T43.widx (t : T43) : Widx := t.extractLsb' 32 10

/-- T[31:0] -/
def T43.wdata (t : T43) : Word := t.extractLsb' 0 32

/-! ### The register map (R26) -/

/-- The word index of a register (R26, first column). -/
def Reg.widx : Reg → Widx
  | .key i => BitVec.ofNat 10 (0x000 + i.val)
  | .nonce i => BitVec.ofNat 10 (0x004 + i.val)
  | .din i => BitVec.ofNat 10 (0x008 + i.val)
  | .dout i => BitVec.ofNat 10 (0x00C + i.val)
  | .go => 0x010
  | .ctrl => 0x011
  | .crcData => 0x020
  | .crcAcc => 0x021
  | .crcResult => 0x022
  | .crcCtrl => 0x023
  | .status => 0x030
  | .crcTable idx => BitVec.ofNat 10 (0x100 + idx.toNat)

/-- The access column of R26. -/
def Reg.access : Reg → Access
  | .key _ => .wo
  | .nonce _ => .rw
  | .din _ => .rw
  | .dout _ => .ro
  | .go => .wo
  | .ctrl => .wo
  | .crcData => .wo
  | .crcAcc => .ro
  | .crcResult => .ro
  | .crcCtrl => .wo
  | .status => .ro
  | .crcTable _ => .ro

/-- Whether a register may be accessed in a direction (true = write). -/
def Access.allows : Access → Bool → Bool
  | .wo, dir => dir
  | .ro, dir => !dir
  | .rw, _ => true

/-- Operand i = widx[1:0], unsigned (R62). -/
def Widx.quarter (w : Widx) : Fin 4 := (w.extractLsb' 0 2).toFin

/-- Operand idx = widx[7:0], unsigned (R62). -/
def Widx.entry (w : Widx) : Byte := w.extractLsb' 0 8

/-- The register at a word index; none at a reserved index (R26, R48). The groups of four are told by widx[9:2], the CRC
table by widx[9:8], as the match and mask columns of R61 have them. -/
def regAt (w : Widx) : Option Reg :=
  if w.extractLsb' 2 8 = 0x00 then some (.key w.quarter)
  else if w.extractLsb' 2 8 = 0x01 then some (.nonce w.quarter)
  else if w.extractLsb' 2 8 = 0x02 then some (.din w.quarter)
  else if w.extractLsb' 2 8 = 0x03 then some (.dout w.quarter)
  else if w = 0x010 then some .go
  else if w = 0x011 then some .ctrl
  else if w = 0x020 then some .crcData
  else if w = 0x021 then some .crcAcc
  else if w = 0x022 then some .crcResult
  else if w = 0x023 then some .crcCtrl
  else if w = 0x030 then some .status
  else if w.extractLsb' 8 2 = 0x1 then some (.crcTable w.entry)
  else none

/-- The reserved word indices as R48 and R63 list them: 0x012-0x01F, 0x024-0x02F, 0x031-0x0FF, 0x200-0x3FF. -/
def reservedIndex (w : Widx) : Bool :=
  (0x012 ≤ w.toNat && w.toNat ≤ 0x01F) || (0x024 ≤ w.toNat && w.toNat ≤ 0x02F)
    || (0x031 ≤ w.toNat && w.toNat ≤ 0x0FF) || (0x200 ≤ w.toNat && w.toNat ≤ 0x3FF)

/-! ### The decoder (R61, R65) -/

/-- A write transaction to a register (R61 rows with dir 1, R65 rows with dir 1); the data operands are cut out of wdata
as R62 and R64 say. -/
def decodeWrite (wdata : Word) : Reg → Instr
  | .key i => .wrKey i wdata
  | .nonce i => .wrNonce i wdata
  | .din i => .wrDin i wdata
  | .dout i => .illegalWrDout i
  | .go => .wrGo (wdata.extractLsb' 5 27) (wdata.extractLsb' 0 5)
  | .ctrl => .wrCtrl (wdata.extractLsb' 1 31) (wdata.getLsbD 0)
  | .crcData => .wrCrcData (wdata.extractLsb' 8 24) (wdata.extractLsb' 0 8)
  | .crcAcc => .illegalWrCrcAcc
  | .crcResult => .illegalWrCrcResult
  | .crcCtrl => .wrCrcCtrl (wdata.extractLsb' 1 31) (wdata.getLsbD 0)
  | .status => .illegalWrStatus
  | .crcTable idx => .illegalWrCrcTable idx

/-- A read transaction of a register (R61 rows with dir 0, R65 rows with dir 0); wdata is ignored (R60). -/
def decodeRead : Reg → Instr
  | .key i => .illegalRdKey i
  | .nonce i => .rdNonce i
  | .din i => .rdDin i
  | .dout i => .rdDout i
  | .go => .illegalRdGo
  | .ctrl => .illegalRdCtrl
  | .crcData => .illegalRdCrcData
  | .crcAcc => .rdCrcAcc
  | .crcResult => .rdCrcResult
  | .crcCtrl => .illegalRdCrcCtrl
  | .status => .rdStatus
  | .crcTable idx => .rdCrcTable idx

/-- Why a transaction word names no row of the table: its word index is reserved (R63). Direction and index are kept,
since the fault record needs them (R174). -/
inductive DecodeError where
  | reserved (dir : Bool) (widx : Widx)
deriving DecidableEq, Repr

/-- The decoder: total on every transaction word, in every state of the block alike (R67). -/
def decode (t : T43) : Except DecodeError Instr :=
  match regAt t.widx with
  | some r => .ok (if t.dir then decodeWrite t.wdata r else decodeRead r)
  | none => .error (.reserved t.dir t.widx)

/-! ### The encoder -/

/-- The transaction word of an instruction: the dir and widx columns of R61 and R65, wdata put together from the operands
(R62, R64), and 0 where wdata is ignored (R60, "conventionally 0"). -/
def encode : Instr → T43
  | .wrKey i v => T43.pack true (BitVec.ofNat 10 (0x000 + i.val)) v
  | .wrNonce i v => T43.pack true (BitVec.ofNat 10 (0x004 + i.val)) v
  | .rdNonce i => T43.pack false (BitVec.ofNat 10 (0x004 + i.val)) 0
  | .wrDin i v => T43.pack true (BitVec.ofNat 10 (0x008 + i.val)) v
  | .rdDin i => T43.pack false (BitVec.ofNat 10 (0x008 + i.val)) 0
  | .rdDout i => T43.pack false (BitVec.ofNat 10 (0x00C + i.val)) 0
  | .wrGo rsvd len => T43.pack true 0x010 (rsvd ++ len)
  | .wrCtrl rsvd clr => T43.pack true 0x011 (rsvd ++ BitVec.ofBool clr)
  | .wrCrcData rsvd byte => T43.pack true 0x020 (rsvd ++ byte)
  | .rdCrcAcc => T43.pack false 0x021 0
  | .rdCrcResult => T43.pack false 0x022 0
  | .wrCrcCtrl rsvd init => T43.pack true 0x023 (rsvd ++ BitVec.ofBool init)
  | .rdStatus => T43.pack false 0x030 0
  | .rdCrcTable idx => T43.pack false (BitVec.ofNat 10 (0x100 + idx.toNat)) 0
  | .illegalRdKey i => T43.pack false (BitVec.ofNat 10 (0x000 + i.val)) 0
  | .illegalWrDout i => T43.pack true (BitVec.ofNat 10 (0x00C + i.val)) 0
  | .illegalRdGo => T43.pack false 0x010 0
  | .illegalRdCtrl => T43.pack false 0x011 0
  | .illegalRdCrcData => T43.pack false 0x020 0
  | .illegalWrCrcAcc => T43.pack true 0x021 0
  | .illegalWrCrcResult => T43.pack true 0x022 0
  | .illegalRdCrcCtrl => T43.pack false 0x023 0
  | .illegalWrStatus => T43.pack true 0x030 0
  | .illegalWrCrcTable idx => T43.pack true (BitVec.ofNat 10 (0x100 + idx.toNat)) 0

/-- Whether the transaction is a write (R60, the dir bit). -/
def Instr.isWrite (i : Instr) : Bool := T43.dir (encode i)

/-- The word index the transaction names (R60). -/
def Instr.widx (i : Instr) : Widx := T43.widx (encode i)

/-- The rows whose data word is ignored: every read (R60) and every wrong-direction write (R65, "x" in the table). -/
def Instr.ignoresData : Instr → Bool
  | .wrKey _ _ => false
  | .wrNonce _ _ => false
  | .rdNonce _ => true
  | .wrDin _ _ => false
  | .rdDin _ => true
  | .rdDout _ => true
  | .wrGo _ _ => false
  | .wrCtrl _ _ => false
  | .wrCrcData _ _ => false
  | .rdCrcAcc => true
  | .rdCrcResult => true
  | .wrCrcCtrl _ _ => false
  | .rdStatus => true
  | .rdCrcTable _ => true
  | .illegalRdKey _ => true
  | .illegalWrDout _ => true
  | .illegalRdGo => true
  | .illegalRdCtrl => true
  | .illegalRdCrcData => true
  | .illegalWrCrcAcc => true
  | .illegalWrCrcResult => true
  | .illegalRdCrcCtrl => true
  | .illegalWrStatus => true
  | .illegalWrCrcTable _ => true

/-- The ten wrong-direction rows of R65. -/
def Instr.isIllegal : Instr → Bool
  | .wrKey _ _ => false
  | .wrNonce _ _ => false
  | .rdNonce _ => false
  | .wrDin _ _ => false
  | .rdDin _ => false
  | .rdDout _ => false
  | .wrGo _ _ => false
  | .wrCtrl _ _ => false
  | .wrCrcData _ _ => false
  | .rdCrcAcc => false
  | .rdCrcResult => false
  | .wrCrcCtrl _ _ => false
  | .rdStatus => false
  | .rdCrcTable _ => false
  | .illegalRdKey _ => true
  | .illegalWrDout _ => true
  | .illegalRdGo => true
  | .illegalRdCtrl => true
  | .illegalRdCrcData => true
  | .illegalWrCrcAcc => true
  | .illegalWrCrcResult => true
  | .illegalRdCrcCtrl => true
  | .illegalWrStatus => true
  | .illegalWrCrcTable _ => true

/-- The instruction's mnemonic in spec/opcode_table.json. -/
def Instr.mnemonic : Instr → String
  | .wrKey _ _ => "WR.KEY"
  | .wrNonce _ _ => "WR.NONCE"
  | .rdNonce _ => "RD.NONCE"
  | .wrDin _ _ => "WR.DIN"
  | .rdDin _ => "RD.DIN"
  | .rdDout _ => "RD.DOUT"
  | .wrGo _ _ => "WR.GO"
  | .wrCtrl _ _ => "WR.CTRL"
  | .wrCrcData _ _ => "WR.CRC_DATA"
  | .rdCrcAcc => "RD.CRC_ACC"
  | .rdCrcResult => "RD.CRC_RESULT"
  | .wrCrcCtrl _ _ => "WR.CRC_CTRL"
  | .rdStatus => "RD.STATUS"
  | .rdCrcTable _ => "RD.CRC_TABLE"
  | .illegalRdKey _ => "ILLEGAL.RD.KEY"
  | .illegalWrDout _ => "ILLEGAL.WR.DOUT"
  | .illegalRdGo => "ILLEGAL.RD.GO"
  | .illegalRdCtrl => "ILLEGAL.RD.CTRL"
  | .illegalRdCrcData => "ILLEGAL.RD.CRC_DATA"
  | .illegalWrCrcAcc => "ILLEGAL.WR.CRC_ACC"
  | .illegalWrCrcResult => "ILLEGAL.WR.CRC_RESULT"
  | .illegalRdCrcCtrl => "ILLEGAL.RD.CRC_CTRL"
  | .illegalWrStatus => "ILLEGAL.WR.STATUS"
  | .illegalWrCrcTable _ => "ILLEGAL.WR.CRC_TABLE"

/-- One row of the operation maps R61 and R65: a transaction T selects it when T AND mask = value. -/
structure OpRow where
  mnemonic : String
  value : T43
  mask : T43
deriving DecidableEq, Repr

/-- The operation map R61, row for row: mnemonic, match, mask. -/
def legalRows : List OpRow :=
  [⟨"WR.KEY", 0x40000000000, 0x7FC00000000⟩,
   ⟨"WR.NONCE", 0x40400000000, 0x7FC00000000⟩,
   ⟨"RD.NONCE", 0x00400000000, 0x7FC00000000⟩,
   ⟨"WR.DIN", 0x40800000000, 0x7FC00000000⟩,
   ⟨"RD.DIN", 0x00800000000, 0x7FC00000000⟩,
   ⟨"RD.DOUT", 0x00C00000000, 0x7FC00000000⟩,
   ⟨"WR.GO", 0x41000000000, 0x7FF00000000⟩,
   ⟨"WR.CTRL", 0x41100000000, 0x7FF00000000⟩,
   ⟨"WR.CRC_DATA", 0x42000000000, 0x7FF00000000⟩,
   ⟨"RD.CRC_ACC", 0x02100000000, 0x7FF00000000⟩,
   ⟨"RD.CRC_RESULT", 0x02200000000, 0x7FF00000000⟩,
   ⟨"WR.CRC_CTRL", 0x42300000000, 0x7FF00000000⟩,
   ⟨"RD.STATUS", 0x03000000000, 0x7FF00000000⟩,
   ⟨"RD.CRC_TABLE", 0x10000000000, 0x70000000000⟩]

/-- The wrong-direction accesses R65, row for row. -/
def wrongDirectionRows : List OpRow :=
  [⟨"ILLEGAL.RD.KEY", 0x00000000000, 0x7FC00000000⟩,
   ⟨"ILLEGAL.WR.DOUT", 0x40C00000000, 0x7FC00000000⟩,
   ⟨"ILLEGAL.RD.GO", 0x01000000000, 0x7FF00000000⟩,
   ⟨"ILLEGAL.RD.CTRL", 0x01100000000, 0x7FF00000000⟩,
   ⟨"ILLEGAL.RD.CRC_DATA", 0x02000000000, 0x7FF00000000⟩,
   ⟨"ILLEGAL.WR.CRC_ACC", 0x42100000000, 0x7FF00000000⟩,
   ⟨"ILLEGAL.WR.CRC_RESULT", 0x42200000000, 0x7FF00000000⟩,
   ⟨"ILLEGAL.RD.CRC_CTRL", 0x02300000000, 0x7FF00000000⟩,
   ⟨"ILLEGAL.WR.STATUS", 0x43000000000, 0x7FF00000000⟩,
   ⟨"ILLEGAL.WR.CRC_TABLE", 0x50000000000, 0x70000000000⟩]

/-- A row selects a transaction word (R61). -/
def OpRow.selects (r : OpRow) (t : T43) : Bool := t &&& r.mask == r.value

/-- The instruction the decoder reads from a table word: T43 is one word, its bit 0 the table's bit 0; a number that
does not fit 43 bits (or the nbits it is said to have) is no transaction. -/
def decodeTableWord (nbits w : Nat) : Option Instr :=
  if w < 2 ^ nbits ∧ w < 2 ^ 43 then
    match decode (BitVec.ofNat 43 w) with
    | .ok i => some i
    | .error _ => none
  else none

/-! ### Host accesses and the notation -/

/-- The transaction a host access becomes when the window begins at base: a whole 32-bit word at byte offset 4*widx above
base (R26). An access of another shape (narrower, wider, misaligned) is no transaction (R45), nor is one outside the window
(DEDUCED, log entry 9). Addresses do not wrap (DESIGN CHOICE, log entry 4). -/
def hostAccessAt (base : Nat) (dir : Bool) (addr bytes : Nat) (v : Word) : Option T43 :=
  if bytes = 4 ∧ base ≤ addr ∧ (addr - base) % 4 = 0 ∧ (addr - base) / 4 < Config.windowWords then
    some (T43.pack dir (BitVec.ofNat 10 ((addr - base) / 4)) v)
  else none

/-- The same for the window of this hardware, at BASE (R26). -/
def hostAccess (dir : Bool) (addr bytes : Nat) (v : Word) : Option T43 := hostAccessAt Config.base dir addr bytes v

/-- The word index a notation line's target names (R68). -/
def AsmTarget.widx : AsmTarget → Widx
  | .reg r => r.widx
  | .index w => w

/-- The transaction a notation line stands for (R68): T = 1<<42 | widx<<32 | v for a write; a read carries 0. -/
def AsmLine.assemble : AsmLine → T43
  | .wr target v => T43.pack true target.widx v
  | .rd target => T43.pack false target.widx 0

end Sys2Proof
end

