-- ==== Sys2Proof/Machine/Bytes.lean ====
section
/-! DEFINITION. Four-element arrays and the byte order of the block: be32, word_be and 16-byte sequences
(00_scope.md section 4, R42). -/

namespace Sys2Proof

/-! ### Arrays of four -/

/-- x[i] -/
def Four.get {α : Type} (q : Four α) : Fin 4 → α
  | 0 => q.x0
  | 1 => q.x1
  | 2 => q.x2
  | 3 => q.x3

/-- x[i] <- v -/
def Four.set {α : Type} (q : Four α) (i : Fin 4) (v : α) : Four α :=
  match i with
  | 0 => { q with x0 := v }
  | 1 => { q with x1 := v }
  | 2 => { q with x2 := v }
  | 3 => { q with x3 := v }

/-- The array whose element i is f i. -/
def Four.ofFn {α : Type} (f : Fin 4 → α) : Four α := ⟨f 0, f 1, f 2, f 3⟩

/-- f applied to every element. -/
def Four.map {α β : Type} (f : α → β) (q : Four α) : Four β := ⟨f q.x0, f q.x1, f q.x2, f q.x3⟩

/-- f applied element by element to two arrays. -/
def Four.zipWith {α β γ : Type} (f : α → β → γ) (p : Four α) (q : Four β) : Four γ :=
  ⟨f p.x0 q.x0, f p.x1 q.x1, f p.x2 q.x2, f p.x3 q.x3⟩

/-- The elements in index order. -/
def Four.toList {α : Type} (q : Four α) : List α := [q.x0, q.x1, q.x2, q.x3]

/-! ### Words as bytes, big-endian (R42) -/

/-- be32(w) = [w[31:24], w[23:16], w[15:8], w[7:0]]. -/
def be32 (w : Word) : Col :=
  ⟨w.extractLsb' 24 8, w.extractLsb' 16 8, w.extractLsb' 8 8, w.extractLsb' 0 8⟩

/-- word_be(b) = b[0]*2^24 + b[1]*2^16 + b[2]*2^8 + b[3]. -/
def wordBe (b : Col) : Word := b.x0 ++ b.x1 ++ b.x2 ++ b.x3

/-- be32(q[0]) || be32(q[1]) || be32(q[2]) || be32(q[3]): the 16 bytes of a register group (R11, R14, R15, R16). -/
def Quad.toBlk (q : Quad) : Blk := q.map be32

/-- word_be of bytes 4i to 4i+3 for i = 0..3 (R86 step 7). -/
def Blk.toQuad (b : Blk) : Quad := b.map wordBe

/-! ### 16-byte sequences -/

/-- Byte j of a block. -/
def Blk.byte (b : Blk) (j : Fin 16) : Byte := (b.get ⟨j.val / 4, by omega⟩).get ⟨j.val % 4, by omega⟩

/-- The block whose byte j is f j. -/
def Blk.ofBytes (f : Fin 16 → Byte) : Blk :=
  Four.ofFn fun i => Four.ofFn fun j => f ⟨4 * i.val + j.val, by omega⟩

/-- The 16 bytes in sequence order. -/
def Blk.toBytes (b : Blk) : List Byte := b.toList.flatMap Four.toList

/-- Byte by byte XOR of two blocks (R86 step 6). -/
def Blk.xor (a b : Blk) : Blk := Four.zipWith (Four.zipWith (· ^^^ ·)) a b

end Sys2Proof
end

