-- ==== Sys2Proof/Machine/Aes.lean ====
section
/-! DEFINITION. The AES-128 single-block encryption of 41_aes128.md (R120 to R128). The spec marks that algorithm as from
general knowledge: PRESUMED, log entry 5. The state array s[r][c] is row r of column c (R122). -/

namespace Sys2Proof

/-! ### Field arithmetic (R121) -/

/-- b times 0x02 in the field: shift left one, and reduce by 0x1B when bit 7 was set. -/
def xtime (b : Byte) : Byte := (b <<< 1) ^^^ (if b.getLsbD 7 then 0x1B else 0x00)

/-- b times 0x03. -/
def mul3 (b : Byte) : Byte := xtime b ^^^ b

/-- Multiplication of polynomials modulo x^8 + x^4 + x^3 + x + 1, over the n low bits of b. -/
def gfMulBits (a b : Byte) : Nat → Byte
  | 0 => 0
  | n + 1 => (if b.getLsbD 0 then a else 0) ^^^ gfMulBits (xtime a) (b >>> 1) n

/-- The product of two bytes in the field of R121. -/
def gfMul (a b : Byte) : Byte := gfMulBits a b 8

/-! ### SubBytes (R123) -/

/-- The rows 0x to Fx of the S-box table, columns x0 to xF from the left. -/
def sboxRows : List (BitVec 128) :=
  [0x637c777bf26b6fc53001672bfed7ab76,
   0xca82c97dfa5947f0add4a2af9ca472c0,
   0xb7fd9326363ff7cc34a5e5f171d83115,
   0x04c723c31896059a071280e2eb27b275,
   0x09832c1a1b6e5aa0523bd6b329e32f84,
   0x53d100ed20fcb15b6acbbe394a4c58cf,
   0xd0efaafb434d338545f9027f503c9fa8,
   0x51a3408f929d38f5bcb6da2110fff3d2,
   0xcd0c13ec5f974417c4a77e3d645d1973,
   0x60814fdc222a908846eeb814de5e0bdb,
   0xe0323a0a4906245cc2d3ac629195e479,
   0xe7c8376d8dd54ea96c56f4ea657aae08,
   0xba78252e1ca6b4c6e8dd741f4bbd8b8a,
   0x703eb5664803f60e613557b986c11d9e,
   0xe1f8981169d98e949b1e87e9ce5528df,
   0x8ca1890dbfe6426841992d0fb054bb16]

/-- SBOX[a]: row a[7:4], column a[3:0]. -/
def sbox (a : Byte) : Byte :=
  (sboxRows.getD (a.toNat / 16) 0).extractLsb' (8 * (15 - a.toNat % 16)) 8

/-- Every byte of the state replaced by its SBOX entry. -/
def subBytes (s : Blk) : Blk := s.map (Four.map sbox)

/-! ### ShiftRows, MixColumns, AddRoundKey (R124, R125, R126) -/

/-- s'[r][c] = s[r][(c + r) mod 4]. -/
def shiftRows (s : Blk) : Blk := Four.ofFn fun c => Four.ofFn fun r => (s.get (c + r)).get r

/-- One column of MixColumns. -/
def mixColumn (a : Col) : Col :=
  ⟨xtime a.x0 ^^^ mul3 a.x1 ^^^ a.x2 ^^^ a.x3,
   a.x0 ^^^ xtime a.x1 ^^^ mul3 a.x2 ^^^ a.x3,
   a.x0 ^^^ a.x1 ^^^ xtime a.x2 ^^^ mul3 a.x3,
   mul3 a.x0 ^^^ a.x1 ^^^ a.x2 ^^^ xtime a.x3⟩

/-- Every column replaced by its mix. -/
def mixColumns (s : Blk) : Blk := s.map mixColumn

/-- Column c XORed with the bytes of the round key's word c. -/
def addRoundKey (rk : Quad) (s : Blk) : Blk := s.xor rk.toBlk

/-! ### Key expansion (R127) -/

/-- RotWord: rotate left by one byte. -/
def rotWord (t : Word) : Word := (t <<< 8) ||| (t >>> 24)

/-- SubWord: SBOX on each byte. -/
def subWord (t : Word) : Word := wordBe ((be32 t).map sbox)

/-- RC[1..10]; no other index is used. -/
def roundConstants : List Byte := [0x01, 0x02, 0x04, 0x08, 0x10, 0x20, 0x40, 0x80, 0x1B, 0x36]

/-- The four schedule words after the four words w, with round constant rc: the first is w[i-4] XOR (SubWord(RotWord(
w[i-1])) XOR rc << 24), each of the others w[i-4] XOR w[i-1]. -/
def nextRoundKey (rc : Byte) (w : Quad) : Quad :=
  let v0 := w.x0 ^^^ (subWord (rotWord w.x3) ^^^ (rc ++ 0#24))
  let v1 := w.x1 ^^^ v0
  let v2 := w.x2 ^^^ v1
  let v3 := w.x3 ^^^ v2
  ⟨v0, v1, v2, v3⟩

/-- The schedule words w[4n] to w[4n+3] of a key given as its four words. -/
def roundKey (k : Quad) : Nat → Quad
  | 0 => k
  | n + 1 => nextRoundKey (roundConstants.getD n 0) (roundKey k n)

/-- The schedule word w[i] (R127 has i in 0..43). -/
def scheduleWord (k : Quad) (i : Nat) : Word := (roundKey k (i / 4)).get ⟨i % 4, by omega⟩

/-! ### The cipher (R128, R120) -/

/-- One of rounds 1 to 9. -/
def aesRound (rk : Quad) (s : Blk) : Blk := addRoundKey rk (mixColumns (shiftRows (subBytes s)))

/-- The last round: no MixColumns. -/
def aesLastRound (rk : Quad) (s : Blk) : Blk := addRoundKey rk (shiftRows (subBytes s))

/-- The state after AddRoundKey(0) and rounds 1 to n. -/
def aesRounds (k : Quad) (x : Blk) : Nat → Blk
  | 0 => addRoundKey (roundKey k 0) x
  | n + 1 => aesRound (roundKey k (n + 1)) (aesRounds k x n)

/-- AES128_ENC(k, x) (R120): the encryption of one 16-byte block under a 16-byte key. -/
def aes128Enc (k x : Blk) : Blk := aesLastRound (roundKey k.toQuad 10) (aesRounds k.toQuad x 9)

end Sys2Proof
end

