-- ==== Sys2Proof/Machine/State.lean ====
section
/-! DEFINITION. The architectural state of R10, the two ends of the port, the reasons a step can stop, and the state
after reset (R28). -/

namespace Sys2Proof.Machine

/-- The three causes of R170. -/
inductive Cause where
  /-- WR.GO with an incomplete key (R171) -/
  | keylen
  /-- WR.GO with LEN 0 or above 16 (R172) -/
  | badlen
  /-- reserved index, wrong direction or nonzero reserved data bits (R173) -/
  | badacc
deriving DecidableEq, Repr

/-- What reaches the block from outside: a host transaction (R60) or the reset event, which falls between two
transactions (R190). -/
inductive PortEvent where
  | txn (t : T43)
  | reset
deriving DecidableEq, Repr

/-- The state. The first eleven fields are exactly the tuple R10; `pending` and `responses` are the port's two ends,
the model's own fields (DESIGN CHOICE, log entries 1 and 2). There is no program counter (R22), no mode bit, no queue of
the block's own and no memory (R10, R23, R40). -/
@[ext]
structure State where
  /-- KEY[0..3] (R11) -/
  key : Quad
  /-- KEYMASK, bit i for KEY[i] (R12) -/
  keymask : BitVec 4
  /-- NONCE[0..3], NONCE[3] the block counter (R13) -/
  nonce : Quad
  /-- DIN[0..3] (R15) -/
  din : Quad
  /-- DOUT[0..3] (R16) -/
  dout : Quad
  /-- DVALID (R17) -/
  dvalid : Bool
  /-- CRC_ACC (R18) -/
  crcAcc : Word
  /-- FAULT, the sticky latch (R19) -/
  fault : Bool
  /-- FCAUSE (R19, R170) -/
  fcause : BitVec 4
  /-- FDIR, true for a write (R19) -/
  fdir : Bool
  /-- FADDR (R19) -/
  faddr : Widx
  /-- the events still to reach the port, the next one first -/
  pending : List PortEvent
  /-- the read data the port has returned, oldest first -/
  responses : List Word
deriving DecidableEq, Repr

/-- Reasons a step could stop the machine. There is none: every fault of the block is latched in the state and the block
goes on answering (R174, R175), and it is never finished (R6). No constructor, so no one raises one. -/
inductive Fault where
deriving DecidableEq, Repr

/-- Reasons a step could have no meaning. -/
inductive Refusal where
  /-- An instruction the model gives no meaning yet, by its mnemonic. Raised by exec's refused arms only, of which there
  is none: no step of this model refuses. Safe. -/
  | notModelled (mnemonic : String)
deriving DecidableEq, Repr

/-- The reset values of R28, and nothing presented at the port yet. -/
def State.reset : State where
  key := ⟨0, 0, 0, 0⟩
  keymask := 0
  nonce := ⟨0, 0, 0, 0⟩
  din := ⟨0, 0, 0, 0⟩
  dout := ⟨0, 0, 0, 0⟩
  dvalid := false
  crcAcc := Config.crcInit
  fault := false
  fcause := 0
  fdir := false
  faddr := 0
  pending := []
  responses := []

end Sys2Proof.Machine
end

