-- ==== Sys2Proof/Machine/Flags.lean ====
section
/-! DEFINITION. The flags of R24 and the status word assembled from them (R27, R160). -/

namespace Sys2Proof.Machine

/-- FCAUSE code of a cause (R170); 0 means no fault. -/
def Cause.code : Cause → BitVec 4
  | .keylen => 1
  | .badlen => 2
  | .badacc => 3

/-- KEYMASK with bit i set (R80, R12). -/
def maskWith (mask : BitVec 4) (i : Fin 4) : BitVec 4 := mask ||| (1#4 <<< i.val)

/-- The key is complete when KEYMASK = 0b1111 (R12). -/
def keyComplete (mask : BitVec 4) : Bool := mask == 0b1111

/-- STATUS = FAULT | DVALID<<1 | FCAUSE<<4 | KEYMASK<<8 | FADDR<<16 | FDIR<<28 (R27, R160). -/
def State.statusWord (s : State) : Word :=
  (BitVec.ofBool s.fault).setWidth 32
    ||| ((BitVec.ofBool s.dvalid).setWidth 32 <<< 1)
    ||| (s.fcause.setWidth 32 <<< 4)
    ||| (s.keymask.setWidth 32 <<< 8)
    ||| (s.faddr.setWidth 32 <<< 16)
    ||| ((BitVec.ofBool s.fdir).setWidth 32 <<< 28)

end Sys2Proof.Machine
end

