-- ==== Sys2Proof/Machine/Operands.lean ====
section
/-! DEFINITION. What an operation computes from its operands and the registers before it writes anything: the legal LEN
values (R62), the byte views of the registers (R11, R14, R15), INBLK (R87), KS (R88), the output block (R86) and the CRC
byte step (R141, R145). -/

namespace Sys2Proof.Machine

/-- LEN is legal when 1 <= LEN <= 16 (R62, R86 step 2). -/
def lenLegal (len : BitVec 5) : Bool := 1 ≤ len.toNat && len.toNat ≤ 16

/-- KEYBYTES (R11). -/
def State.keyBytes (s : State) : Blk := s.key.toBlk

/-- NB, the nonce block (R14). -/
def State.nonceBlock (s : State) : Blk := s.nonce.toBlk

/-- DINBYTES (R15). -/
def State.dinBytes (s : State) : Blk := s.din.toBlk

/-- INBLK(DIN, LEN): byte j of DIN where j < LEN, the filler 0xFF elsewhere (R87). -/
def inBlk (d : Blk) (len : Nat) : Blk := Blk.ofBytes fun j => if j.val < len then d.byte j else Config.padByte

/-- KS(KEY, NONCE) = AES128_ENC(KEYBYTES, NB) (R88). -/
def State.keystream (s : State) : Blk := aes128Enc s.keyBytes s.nonceBlock

/-- Y: INBLK XOR KS (R86 steps 4 to 6). -/
def State.outBlk (s : State) (len : BitVec 5) : Blk := (inBlk s.dinBytes len.toNat).xor s.keystream

/-- One byte through the CRC: idx = (acc >> 24) XOR byte, acc' = (acc << 8) XOR table[idx] (R141, R145). -/
def crcStep (table : Byte → Word) (acc : Word) (b : Byte) : Word :=
  (acc <<< 8) ^^^ table (acc.extractLsb' 24 8 ^^^ b)

/-- NOT_32 of the accumulator (R143, R145). -/
def crcFinish (acc : Word) : Word := acc ^^^ Config.crcXorOut

end Sys2Proof.Machine
end

