-- ==== Sys2Proof/Machine/Ops.lean ====
section
/-! DEFINITION. The named operations on the state: register updates, the read response, fault entry (R174), reset (R190),
the two shapes every transaction has (a write, ignored while FAULT = 1, and a read), and taking the next port event. -/

namespace Sys2Proof.Machine

/-! ### Register updates -/

/-- KEY[i] <- v, KEYMASK[i] <- 1 (R80). -/
def State.loadKey (i : Fin 4) (v : Word) (s : State) : State :=
  { s with key := s.key.set i v, keymask := maskWith s.keymask i }

/-- NONCE[i] <- v (R81). -/
def State.loadNonce (i : Fin 4) (v : Word) (s : State) : State := { s with nonce := s.nonce.set i v }

/-- DIN[i] <- v (R83). -/
def State.loadDin (i : Fin 4) (v : Word) (s : State) : State := { s with din := s.din.set i v }

/-- Steps 4 to 9 of R86: DOUT, DVALID and the counter, all computed from the state before. -/
def State.processBlock (len : BitVec 5) (s : State) : State :=
  { s with dout := (s.outBlk len).toQuad, dvalid := true, nonce := { s.nonce with x3 := s.nonce.x3 + 1 } }

/-- CTRL.CLR: the cipher unit to its reset state (R91). -/
def State.clearCipher (s : State) : State :=
  { s with key := ⟨0, 0, 0, 0⟩, keymask := 0, nonce := ⟨0, 0, 0, 0⟩, din := ⟨0, 0, 0, 0⟩, dout := ⟨0, 0, 0, 0⟩,
           dvalid := false }

/-- CRC_ACC <- 0xFFFFFFFF (R140). -/
def State.crcRestart (s : State) : State := { s with crcAcc := Config.crcInit }

/-- CRC_ACC <- the byte step (R141). -/
def State.crcFeed (b : Byte) (s : State) : State := { s with crcAcc := crcStep Config.crcTable s.crcAcc b }

/-! ### Faults and reset -/

/-- Fault entry, raise Fault(c) in a transaction of direction d at word index a, when FAULT = 0 (R174): the record is
written and nothing else. There is no return from a fault (R179): only reset clears the record. -/
def State.raiseFault (c : Cause) (d : Bool) (a : Widx) (s : State) : State :=
  { s with fault := true, fcause := c.code, fdir := d, faddr := a }

/-- The reset event: every state element to its value of R28 (R190). The port's two ends are outside the block. -/
def State.resetBlock (s : State) : State :=
  { State.reset with pending := s.pending, responses := s.responses }

/-! ### The two shapes of a transaction -/

/-- The port returns v (R54). -/
def State.respond (v : Word) (s : State) : State := { s with responses := s.responses ++ [v] }

/-- A write transaction whose effect, when FAULT = 0, is f; while FAULT = 1 it is ignored (R175). It returns nothing
(R55). -/
def writeTxn (f : State → State) (s : State) : Host.Outcome State Fault Refusal :=
  .next (if s.fault then s else f s)

/-- A legal read: it returns its value whatever FAULT is, and changes nothing (R47, R175). -/
def readTxn (v : Word) (s : State) : Host.Outcome State Fault Refusal := .next (s.respond v)

/-- A write that raises BADACC at word index a (R63, R65), ignored while FAULT = 1 (R66). -/
def badWrite (a : Widx) (s : State) : Host.Outcome State Fault Refusal := writeTxn (State.raiseFault .badacc true a) s

/-- A read that raises BADACC at word index a and returns 0x00000000 (R63, R65); while FAULT = 1 it records nothing and
still returns 0 (R66, R175). -/
def badRead (a : Widx) (s : State) : Host.Outcome State Fault Refusal :=
  .next (State.respond 0 (if s.fault then s else s.raiseFault .badacc false a))

/-! ### The port -/

/-- The next event at the port and the state from which it is served: that event taken off the list (R49). -/
def State.nextEvent (s : State) : Option (PortEvent × State) :=
  match s.pending with
  | [] => none
  | e :: rest => some (e, { s with pending := rest })

/-- The host presents nothing: the block does nothing between transactions (R5). DEDUCED, log entry 3. -/
def idle (s : State) : Host.Outcome State Fault Refusal := .next s

/-- The reset event is served (R190). -/
def takeReset (s : State) : Host.Outcome State Fault Refusal := .next s.resetBlock

/-- The state in which the host issues these transactions after whatever it was going to issue (R49). -/
def State.issue (ts : List T43) (s : State) : State := { s with pending := s.pending ++ ts.map PortEvent.txn }

end Sys2Proof.Machine
end

