-- ==== Sys2Proof/Machine/Cipher.lean ====
section
/-! DEFINITION. The cipher unit's transactions (40_cipher.md section 2). -/

namespace Sys2Proof.Machine

/-- WR.KEY i (R80). -/
def execWrKey (i : Fin 4) (v : Word) (s : State) : Host.Outcome State Fault Refusal := writeTxn (State.loadKey i v) s

/-- WR.NONCE i (R81). -/
def execWrNonce (i : Fin 4) (v : Word) (s : State) : Host.Outcome State Fault Refusal :=
  writeTxn (State.loadNonce i v) s

/-- RD.NONCE i (R82). -/
def execRdNonce (i : Fin 4) (s : State) : Host.Outcome State Fault Refusal := readTxn (s.nonce.get i) s

/-- WR.DIN i (R83). -/
def execWrDin (i : Fin 4) (v : Word) (s : State) : Host.Outcome State Fault Refusal := writeTxn (State.loadDin i v) s

/-- RD.DIN i (R84). -/
def execRdDin (i : Fin 4) (s : State) : Host.Outcome State Fault Refusal := readTxn (s.din.get i) s

/-- RD.DOUT i (R85). -/
def execRdDout (i : Fin 4) (s : State) : Host.Outcome State Fault Refusal := readTxn (s.dout.get i) s

/-- What a WR.GO does when FAULT = 0 (R86): the three tests in the order of R176, then the block operation. -/
def State.go (rsvd : BitVec 27) (len : BitVec 5) (s : State) : State :=
  if rsvd ≠ 0 then s.raiseFault .badacc true Reg.go.widx
  else if !lenLegal len then s.raiseFault .badlen true Reg.go.widx
  else if !keyComplete s.keymask then s.raiseFault .keylen true Reg.go.widx
  else s.processBlock len

/-- WR.GO (R86). -/
def execWrGo (rsvd : BitVec 27) (len : BitVec 5) (s : State) : Host.Outcome State Fault Refusal :=
  writeTxn (State.go rsvd len) s

/-- What a WR.CTRL does when FAULT = 0 (R91). -/
def State.ctrl (rsvd : BitVec 31) (clr : Bool) (s : State) : State :=
  if rsvd ≠ 0 then s.raiseFault .badacc true Reg.ctrl.widx
  else if clr then s.clearCipher
  else s

/-- WR.CTRL (R91). -/
def execWrCtrl (rsvd : BitVec 31) (clr : Bool) (s : State) : Host.Outcome State Fault Refusal :=
  writeTxn (State.ctrl rsvd clr) s

end Sys2Proof.Machine
end

