-- ==== Sys2Proof/Machine/Crc.lean ====
section
/-! DEFINITION. The CRC unit's transactions (42_crc.md section 2). -/

namespace Sys2Proof.Machine

/-- What a WR.CRC_DATA does when FAULT = 0 (R141). -/
def State.crcData (rsvd : BitVec 24) (byte : Byte) (s : State) : State :=
  if rsvd ≠ 0 then s.raiseFault .badacc true Reg.crcData.widx
  else s.crcFeed byte

/-- WR.CRC_DATA (R141). -/
def execWrCrcData (rsvd : BitVec 24) (byte : Byte) (s : State) : Host.Outcome State Fault Refusal :=
  writeTxn (State.crcData rsvd byte) s

/-- RD.CRC_ACC (R142). -/
def execRdCrcAcc (s : State) : Host.Outcome State Fault Refusal := readTxn s.crcAcc s

/-- RD.CRC_RESULT (R143). -/
def execRdCrcResult (s : State) : Host.Outcome State Fault Refusal := readTxn (crcFinish s.crcAcc) s

/-- What a WR.CRC_CTRL does when FAULT = 0 (R140). -/
def State.crcCtrl (rsvd : BitVec 31) (init : Bool) (s : State) : State :=
  if rsvd ≠ 0 then s.raiseFault .badacc true Reg.crcCtrl.widx
  else if init then s.crcRestart
  else s

/-- WR.CRC_CTRL (R140). -/
def execWrCrcCtrl (rsvd : BitVec 31) (init : Bool) (s : State) : Host.Outcome State Fault Refusal :=
  writeTxn (State.crcCtrl rsvd init) s

/-- RD.CRC_TABLE idx (R144). -/
def execRdCrcTable (idx : Byte) (s : State) : Host.Outcome State Fault Refusal := readTxn (Config.crcTable idx) s

end Sys2Proof.Machine
end

