-- ==== Sys2Proof/Machine/Illegal.lean ====
section
/-! DEFINITION. The ten wrong-direction transactions (R65) and an access to a reserved word index (R63): each takes the
fault BADACC, and a read among them returns 0. -/

namespace Sys2Proof.Machine

/-- Read of KEY i: the key cannot be read back (R65). -/
def execIllegalRdKey (i : Fin 4) (s : State) : Host.Outcome State Fault Refusal := badRead (Reg.key i).widx s

/-- Write of DOUT i (R65). -/
def execIllegalWrDout (i : Fin 4) (s : State) : Host.Outcome State Fault Refusal := badWrite (Reg.dout i).widx s

/-- Read of GO (R65). -/
def execIllegalRdGo (s : State) : Host.Outcome State Fault Refusal := badRead Reg.go.widx s

/-- Read of CTRL (R65). -/
def execIllegalRdCtrl (s : State) : Host.Outcome State Fault Refusal := badRead Reg.ctrl.widx s

/-- Read of CRC_DATA (R65). -/
def execIllegalRdCrcData (s : State) : Host.Outcome State Fault Refusal := badRead Reg.crcData.widx s

/-- Write of CRC_ACC (R65). -/
def execIllegalWrCrcAcc (s : State) : Host.Outcome State Fault Refusal := badWrite Reg.crcAcc.widx s

/-- Write of CRC_RESULT (R65). -/
def execIllegalWrCrcResult (s : State) : Host.Outcome State Fault Refusal := badWrite Reg.crcResult.widx s

/-- Read of CRC_CTRL (R65). -/
def execIllegalRdCrcCtrl (s : State) : Host.Outcome State Fault Refusal := badRead Reg.crcCtrl.widx s

/-- Write of STATUS (R65). -/
def execIllegalWrStatus (s : State) : Host.Outcome State Fault Refusal := badWrite Reg.status.widx s

/-- Write of CRC_TABLE[idx]: the table is read-only (R65). -/
def execIllegalWrCrcTable (idx : Byte) (s : State) : Host.Outcome State Fault Refusal :=
  badWrite (Reg.crcTable idx).widx s

/-- A transaction the decoder rejects: its word index is reserved, read or write (R63). -/
def takeReserved (e : DecodeError) (s : State) : Host.Outcome State Fault Refusal :=
  match e with
  | .reserved dir widx => if dir then badWrite widx s else badRead widx s

end Sys2Proof.Machine
end

