-- ==== Sys2Proof/Machine/System.lean ====
section
/-! DEFINITION. The status read (43_system.md section 1). -/

namespace Sys2Proof.Machine

/-- RD.STATUS (R160). -/
def execRdStatus (s : State) : Host.Outcome State Fault Refusal := readTxn s.statusWord s

end Sys2Proof.Machine
end

