-- ==== Sys2Proof/Machine/Dispatch.lean ====
section
/-! DEFINITION. One arm per instruction. -/

namespace Sys2Proof.Machine

def exec (i : Instr) (s : State) : Host.Outcome State Fault Refusal :=
  match i with
  | .wrKey n v => Sys2Proof.Machine.execWrKey n v s
  | .wrNonce n v => Sys2Proof.Machine.execWrNonce n v s
  | .rdNonce n => Sys2Proof.Machine.execRdNonce n s
  | .wrDin n v => Sys2Proof.Machine.execWrDin n v s
  | .rdDin n => Sys2Proof.Machine.execRdDin n s
  | .rdDout n => Sys2Proof.Machine.execRdDout n s
  | .wrGo rsvd len => Sys2Proof.Machine.execWrGo rsvd len s
  | .wrCtrl rsvd clr => Sys2Proof.Machine.execWrCtrl rsvd clr s
  | .wrCrcData rsvd byte => Sys2Proof.Machine.execWrCrcData rsvd byte s
  | .rdCrcAcc => Sys2Proof.Machine.execRdCrcAcc s
  | .rdCrcResult => Sys2Proof.Machine.execRdCrcResult s
  | .wrCrcCtrl rsvd init => Sys2Proof.Machine.execWrCrcCtrl rsvd init s
  | .rdStatus => Sys2Proof.Machine.execRdStatus s
  | .rdCrcTable idx => Sys2Proof.Machine.execRdCrcTable idx s
  | .illegalRdKey n => Sys2Proof.Machine.execIllegalRdKey n s
  | .illegalWrDout n => Sys2Proof.Machine.execIllegalWrDout n s
  | .illegalRdGo => Sys2Proof.Machine.execIllegalRdGo s
  | .illegalRdCtrl => Sys2Proof.Machine.execIllegalRdCtrl s
  | .illegalRdCrcData => Sys2Proof.Machine.execIllegalRdCrcData s
  | .illegalWrCrcAcc => Sys2Proof.Machine.execIllegalWrCrcAcc s
  | .illegalWrCrcResult => Sys2Proof.Machine.execIllegalWrCrcResult s
  | .illegalRdCrcCtrl => Sys2Proof.Machine.execIllegalRdCrcCtrl s
  | .illegalWrStatus => Sys2Proof.Machine.execIllegalWrStatus s
  | .illegalWrCrcTable idx => Sys2Proof.Machine.execIllegalWrCrcTable idx s

end Sys2Proof.Machine
end

