-- ==== Sys2Proof/Machine/Step.lean ====
section
/-! DEFINITION. One step: the next event at the port is served (R5, R46, R49). -/

namespace Sys2Proof.Machine

/-- One transaction word is executed: decoded (R61), then the instruction's effect, or the effect of a reserved index
(R63). -/
def runTxn (t : T43) (s : State) : Host.Outcome State Fault Refusal :=
  match decode t with
  | .ok i => exec i s
  | .error e => takeReserved e s

/-- One step of the machine: the next transaction or the reset event, in issue order; nothing when the host presents
nothing. -/
def step (s : State) : Host.Outcome State Fault Refusal :=
  match s.nextEvent with
  | none => idle s
  | some (.reset, s') => takeReset s'
  | some (.txn t, s') => runTxn t s'

/-- s with the transaction whose bits are w presented next at the port: the very next step serves it, and the events
already waiting come after it (log entry 1). -/
def State.withFetchWord (s : State) (nbits w : Nat) : State :=
  { s with pending := .txn (BitVec.ofNat 43 (w % 2 ^ nbits)) :: s.pending }

end Sys2Proof.Machine
end

