-- ==== Sys2Proof/Machine/Message.lean ====
section
/-! DEFINITION. What the spec states about whole messages: the functions of HZ as mathematics over byte sequences
(R95 to R97, R145, R149), the pseudo-instructions of R69 and the driver sequences R98 and R146. No step uses them. -/

namespace Sys2Proof

/-! ### The message transform (40_cipher.md section 3) -/

/-- PAD(P) (R95). -/
def pad (p : List Byte) : List Byte :=
  if p.length % 16 = 0 then p else p ++ List.replicate (16 - p.length % 16) Config.padByte

/-- B = len(PAD(P)) / 16 (R96). -/
def blockCount (p : List Byte) : Nat := (pad p).length / Config.blockBytes

/-- n_t = (n[0], n[1], n[2], (n[3] + t) mod 2^32) (R96). -/
def nonceAt (n : Quad) (t : Nat) : Quad := { n with x3 := n.x3 + BitVec.ofNat 32 t }

/-- KS_t = AES128_ENC(k, NB_t) (R96). -/
def keystreamAt (n : Quad) (k : Blk) (t : Nat) : Blk := aes128Enc k (nonceAt n t).toBlk

/-- C[16t .. 16t+15] = Q[16t .. 16t+15] XOR KS_t (R96). -/
def cipherBlock (n : Quad) (k : Blk) (q : List Byte) (t : Nat) : List Byte :=
  List.zipWith (· ^^^ ·) ((q.drop (16 * t)).take 16) (keystreamAt n k t).toBytes

/-- ENC_BLOCKS(n, k, P) (R96): padding is not stripped. -/
def encBlocks (n : Quad) (k : Blk) (p : List Byte) : List Byte :=
  (List.range (blockCount p)).flatMap (cipherBlock n k (pad p))

/-- DEC_BLOCKS is the same function (R97). -/
def decBlocks (n : Quad) (k : Blk) (c : List Byte) : List Byte := encBlocks n k c

/-! ### The CRC (42_crc.md sections 1 and 3) -/

/-- CRC32(data) for a table (R145). -/
def crc32 (table : Byte → Word) (data : List Byte) : Word :=
  Machine.crcFinish (data.foldl (Machine.crcStep table) Config.crcInit)

/-- n times: shift left one, and XOR the polynomial when bit 31 was set (R149). -/
def crcShift (poly r : Word) : Nat → Word
  | 0 => r
  | n + 1 => crcShift poly ((r <<< 1) ^^^ (if r.getLsbD 31 then poly else 0)) n

/-- TABLE_P, the optional generator of R149. -/
def tableP (poly : Word) (i : Byte) : Word := crcShift poly (i ++ 0#24) 8

/-- TT, the test table of R149. It is NOT the vendor table, and no step uses it. -/
def testTable : Byte → Word := tableP 0x04C11DB7

/-! ### Pseudo-instructions (R69) -/

/-- ldkey k0, k1, k2, k3 -/
def Asm.ldkey (k : Quad) : List AsmLine :=
  [.wr (.reg (.key 0)) k.x0, .wr (.reg (.key 1)) k.x1, .wr (.reg (.key 2)) k.x2, .wr (.reg (.key 3)) k.x3]

/-- ldkeyb b0 ... b15 -/
def Asm.ldkeyb (b : Blk) : List AsmLine := Asm.ldkey b.toQuad

/-- ldnonce n0, n1, n2, n3 -/
def Asm.ldnonce (n : Quad) : List AsmLine :=
  [.wr (.reg (.nonce 0)) n.x0, .wr (.reg (.nonce 1)) n.x1, .wr (.reg (.nonce 2)) n.x2, .wr (.reg (.nonce 3)) n.x3]

/-- ldblk w0, w1, w2, w3 -/
def Asm.ldblk (w : Quad) : List AsmLine :=
  [.wr (.reg (.din 0)) w.x0, .wr (.reg (.din 1)) w.x1, .wr (.reg (.din 2)) w.x2, .wr (.reg (.din 3)) w.x3]

/-- go len -/
def Asm.go (len : Nat) : List AsmLine := [.wr (.reg .go) (BitVec.ofNat 32 len)]

/-- rdblk -/
def Asm.rdblk : List AsmLine :=
  [.rd (.reg (.dout 0)), .rd (.reg (.dout 1)), .rd (.reg (.dout 2)), .rd (.reg (.dout 3))]

/-- clr -/
def Asm.clr : List AsmLine := [.wr (.reg .ctrl) 1]

/-- crcinit -/
def Asm.crcinit : List AsmLine := [.wr (.reg .crcCtrl) 1]

/-- crcb b -/
def Asm.crcb (b : Byte) : List AsmLine := [.wr (.reg .crcData) (b.setWidth 32)]

/-- crcres -/
def Asm.crcres : List AsmLine := [.rd (.reg .crcResult)]

/-- word_be(q[m .. m+3]) -/
def wordOfBytes (q : List Byte) (m : Nat) : Word :=
  wordBe ⟨q.getD m 0, q.getD (m + 1) 0, q.getD (m + 2) 0, q.getD (m + 3) 0⟩

/-- len_t (R98): 16, but the remainder for a short last block. -/
def blockLen (p : List Byte) (t : Nat) : Nat :=
  if t + 1 < blockCount p ∨ p.length % 16 = 0 then 16 else p.length % 16

/-- The transactions of block t in R98: the DIN words that hold a real byte, the GO, the four DOUT reads. The words are
cut out of q, of which only the bytes of p count (R98: the bytes beyond len_t may be anything). -/
def Asm.msgBlockFrom (q p : List Byte) (t : Nat) : List AsmLine :=
  (([0, 1, 2, 3] : List (Fin 4)).filter fun i => decide (4 * i.val < blockLen p t)).map
      (fun i => .wr (.reg (.din i)) (wordOfBytes q (16 * t + 4 * i.val)))
    ++ Asm.go (blockLen p t) ++ Asm.rdblk

/-- The same with the padded message itself (R98). -/
def Asm.msgBlock (p : List Byte) (t : Nat) : List AsmLine := Asm.msgBlockFrom (pad p) p t

/-- The blocks of a message (R98, the loop). -/
def Asm.msgBlocks (p : List Byte) : List AsmLine := (List.range (blockCount p)).flatMap (Asm.msgBlock p)

/-- encmsg n, k, P: the driver sequence R98. -/
def Asm.encmsg (n : Quad) (k : Blk) (p : List Byte) : List AsmLine :=
  Asm.ldkeyb k ++ Asm.ldnonce n ++ Asm.msgBlocks p

/-- The driver sequence R98 with the bytes beyond the message's end taken from tail. -/
def Asm.encmsgTail (n : Quad) (k : Blk) (p tail : List Byte) : List AsmLine :=
  Asm.ldkeyb k ++ Asm.ldnonce n ++ (List.range (blockCount p)).flatMap (Asm.msgBlockFrom (p ++ tail) p)

/-- decmsg n, k, C: identical (R97). -/
def Asm.decmsg (n : Quad) (k : Blk) (c : List Byte) : List AsmLine := Asm.encmsg n k c

/-- crcmsg data: the driver sequence R146. -/
def Asm.crcmsg (data : List Byte) : List AsmLine := Asm.crcinit ++ data.flatMap Asm.crcb ++ Asm.crcres

/-- The transaction words of a listing, in order (R68). -/
def Asm.words (ls : List AsmLine) : List T43 := ls.map AsmLine.assemble

end Sys2Proof
end

