-- ==== Sys2Proof/Safety.lean ====
section
/-! DEFINITION. What counts as a run that went right (R179, R202), and the invariant of the block's state. -/

namespace Sys2Proof.Machine

/-- A run that went right ends with FAULT = 0 (R179); faults are sticky, so it is enough to look at the end (R202). -/
def State.ranRight (s : State) : Prop := s.fault = false

/-- The fault record is coherent: all zero while FAULT = 0 (R19); otherwise a code of R170, and for KEYLEN and BADLEN
the record of a write at GO (R170). -/
def State.RecordCoherent (s : State) : Prop :=
  (s.fault = false → s.fcause = 0 ∧ s.fdir = false ∧ s.faddr = 0) ∧
  (s.fault = true →
    (s.fcause = 1 ∧ s.fdir = true ∧ s.faddr = 0x010) ∨
    (s.fcause = 2 ∧ s.fdir = true ∧ s.faddr = 0x010) ∨
    s.fcause = 3)

/-- The cipher unit's flags say what they are said to: a key word not marked in KEYMASK has not been written since reset
or CLR, so it is zero (R12, R28, R91); DVALID = 0 means no GO since then, so DOUT is zero (R17); DVALID = 1 needs a GO
that found the key complete, and nothing but reset and CLR takes a KEYMASK bit back (R24). -/
def State.FlagsCoherent (s : State) : Prop :=
  (∀ i : Fin 4, s.keymask.getLsbD i.val = false → s.key.get i = 0) ∧
  (s.dvalid = false → s.dout = ⟨0, 0, 0, 0⟩) ∧
  (s.dvalid = true → s.keymask = 0b1111)

/-- The invariant every step keeps. -/
structure State.Inv (s : State) : Prop where
  record : s.RecordCoherent
  flags : s.FlagsCoherent

/-! ### What statements about whole runs and whole families name -/

/-- The cause code a transaction that decodes to d raises, given KEYMASK, with the tests in the order of R176; 0 for
none (R170 to R173). -/
def causeOf (d : Except DecodeError Instr) (mask : BitVec 4) : BitVec 4 :=
  match d with
  | .error (.reserved _ _) => 3
  | .ok (.wrGo rsvd len) =>
    if rsvd ≠ 0 then 3 else if len.toNat = 0 ∨ 16 < len.toNat then 2 else if mask ≠ 0b1111 then 1 else 0
  | .ok (.wrCtrl rsvd _) => if rsvd ≠ 0 then 3 else 0
  | .ok (.wrCrcData rsvd _) => if rsvd ≠ 0 then 3 else 0
  | .ok (.wrCrcCtrl rsvd _) => if rsvd ≠ 0 then 3 else 0
  | .ok i => if i.isIllegal then 3 else 0

/-- The cipher unit's legal transactions (40_cipher.md section 2). -/
def isCipherUnit : Instr → Bool
  | .wrKey _ _ | .wrNonce _ _ | .rdNonce _ | .wrDin _ _ | .rdDin _ | .rdDout _ | .wrGo _ _ | .wrCtrl _ _ => true
  | .wrCrcData _ _ | .rdCrcAcc | .rdCrcResult | .wrCrcCtrl _ _ | .rdStatus | .rdCrcTable _ => false
  | .illegalRdKey _ | .illegalWrDout _ | .illegalRdGo | .illegalRdCtrl | .illegalRdCrcData => false
  | .illegalWrCrcAcc | .illegalWrCrcResult | .illegalRdCrcCtrl | .illegalWrStatus | .illegalWrCrcTable _ => false

/-- The CRC unit's legal transactions (42_crc.md section 2). -/
def isCrcUnit : Instr → Bool
  | .wrCrcData _ _ | .rdCrcAcc | .rdCrcResult | .wrCrcCtrl _ _ | .rdCrcTable _ => true
  | .wrKey _ _ | .wrNonce _ _ | .rdNonce _ | .wrDin _ _ | .rdDin _ | .rdDout _ | .wrGo _ _ | .wrCtrl _ _ => false
  | .rdStatus => false
  | .illegalRdKey _ | .illegalWrDout _ | .illegalRdGo | .illegalRdCtrl | .illegalRdCrcData => false
  | .illegalWrCrcAcc | .illegalWrCrcResult | .illegalRdCrcCtrl | .illegalWrStatus | .illegalWrCrcTable _ => false

/-- Transactions that may stand among those of a cipher message (R98): well-formed ones of the CRC unit, and legal reads. -/
def isCipherBystander (x : T43) : Bool :=
  match decode x with
  | .ok i => i.wellFormed && (isCrcUnit i || !i.isWrite)
  | .error _ => false

/-- Transactions that may stand among those of a CRC message (R146): those of the cipher unit, and legal reads. -/
def isCrcBystander (x : T43) : Bool :=
  match decode x with
  | .ok i => !i.isIllegal && (isCipherUnit i || !i.isWrite)
  | .error _ => false

/-- The words of the tagged transactions of a mixed list, in order. -/
def taggedWords (zs : List (Bool × T43)) : List T43 := (zs.filter fun z => z.1).map fun z => z.2

/-- What the tagged reads of a mixed list returned, given what all its reads returned, in order. -/
def taggedAnswers (zs : List (Bool × T43)) (rs : List Word) : List Word :=
  (((zs.filter fun z => !z.2.dir).zip rs).filter fun a => a.1.1).map fun a => a.2

/-- Whether KEY[i] has been written since the last reset or CTRL.CLR, told from the events alone, oldest first (R12). -/
def keyWritten (i : Fin 4) (es : List PortEvent) : Bool :=
  es.foldl (fun b e =>
    match e with
    | .reset => false
    | .txn x =>
      match decode x with
      | .ok (.wrKey n _) => b || n == i
      | .ok (.wrCtrl _ true) => false
      | _ => b) false

/-- Whether a GO has been performed since the last reset or CTRL.CLR, told from the events alone (R17). -/
def goPerformed (es : List PortEvent) : Bool :=
  es.foldl (fun b e =>
    match e with
    | .reset => false
    | .txn x =>
      match decode x with
      | .ok (.wrGo _ _) => true
      | .ok (.wrCtrl _ true) => false
      | _ => b) false

end Sys2Proof.Machine
end

