-- ==== Sys2Proof/Certificates/Slice0/Obligations.lean ====
section
/-! DEFINITION. The statements for the provers. In a statement about one instruction the conclusion is that exec answers
a next state, and the equation t = { s with … } is the frame: every field not named in it is unchanged. Where a statement
speaks of pending or responses, it speaks of the model's two ends of the port (log entries 1 and 2), no elements of R10. -/

open Sys2Proof Sys2Proof.Machine

/-! ### The cipher unit's transactions -/

/-- R80: WR.KEY i. -/
def Obligations.WrKeyLoadsItsWordAndMaskBit : Prop :=
  ∀ (i : Fin 4) (v : Word) (s : State), s.fault = false →
    decode (T43.pack true (BitVec.ofNat 10 (0x000 + i.val)) v) = .ok (.wrKey i v) ∧
    ∃ t, exec (.wrKey i v) s = .next t ∧
      t.key.get i = v ∧
      (∀ j, j ≠ i → t.key.get j = s.key.get j) ∧
      t.keymask.getLsbD i.val = true ∧
      (∀ j : Fin 4, j ≠ i → t.keymask.getLsbD j.val = s.keymask.getLsbD j.val) ∧
      (∀ j : Fin 4, (t.keyBytes.get i).get j = v.extractLsb' (24 - 8 * j.val) 8) ∧
      t = { s with key := t.key, keymask := t.keymask }

/-- R81: WR.NONCE i; with i = 3 it sets the value the next GO counts on from, 0xFFFFFFFF wrapping to 0. -/
def Obligations.WrNonceLoadsItsWord : Prop :=
  ∀ (i : Fin 4) (v : Word) (s : State), s.fault = false →
    decode (T43.pack true (BitVec.ofNat 10 (0x004 + i.val)) v) = .ok (.wrNonce i v) ∧
    ∃ t, exec (.wrNonce i v) s = .next t ∧
      t.nonce.get i = v ∧
      (∀ j, j ≠ i → t.nonce.get j = s.nonce.get j) ∧
      t = { s with nonce := t.nonce } ∧
      (i = 3 → ∀ (len : BitVec 5) (u : State), exec (.wrGo 0 len) t = .next u → u.fault = false →
        u.nonce.x3.toNat = (v.toNat + 1) % 2 ^ 32)

/-- R83: WR.DIN i. The bytes are be32(v) at block positions 4i to 4i+3, and DIN keeps its value across a GO. -/
def Obligations.WrDinLoadsItsWord : Prop :=
  ∀ (i : Fin 4) (v : Word) (s : State), s.fault = false →
    decode (T43.pack true (BitVec.ofNat 10 (0x008 + i.val)) v) = .ok (.wrDin i v) ∧
    ∃ t, exec (.wrDin i v) s = .next t ∧
      t.din.get i = v ∧
      (∀ j, j ≠ i → t.din.get j = s.din.get j) ∧
      (∀ j : Fin 4, (t.dinBytes.get i).get j = v.extractLsb' (24 - 8 * j.val) 8) ∧
      t = { s with din := t.din } ∧
      ∀ (rsvd : BitVec 27) (len : BitVec 5) (u : State), exec (.wrGo rsvd len) t = .next u → u.din = t.din

/-- R82, R84, R85: the reads of NONCE, DIN and DOUT answer the register in every state, halted or not, whatever data
word they carry, and change nothing; DOUT is zero while DVALID = 0 in every state the invariant admits. -/
def Obligations.CipherReadsAnswerTheirRegister : Prop :=
  ∀ (i : Fin 4) (d : Word) (s : State),
    decode (T43.pack false (BitVec.ofNat 10 (0x004 + i.val)) d) = .ok (.rdNonce i) ∧
    decode (T43.pack false (BitVec.ofNat 10 (0x008 + i.val)) d) = .ok (.rdDin i) ∧
    decode (T43.pack false (BitVec.ofNat 10 (0x00C + i.val)) d) = .ok (.rdDout i) ∧
    exec (.rdNonce i) s = .next { s with responses := s.responses ++ [s.nonce.get i] } ∧
    exec (.rdDin i) s = .next { s with responses := s.responses ++ [s.din.get i] } ∧
    exec (.rdDout i) s = .next { s with responses := s.responses ++ [s.dout.get i] } ∧
    (s.Inv → s.dvalid = false → exec (.rdDout i) s = .next { s with responses := s.responses ++ [0] })

/-- R86 with R87 and R88: WR.GO, its three tests in order and its block operation. -/
def Obligations.GoTestsThenProcessesOneBlock : Prop :=
  ∀ (rsvd : BitVec 27) (len : BitVec 5) (s : State), s.fault = false →
    (∀ w : Word, decode (T43.pack true 0x010 w) = .ok (.wrGo (w.extractLsb' 5 27) (w.extractLsb' 0 5))) ∧
    (rsvd ≠ 0 →
      exec (.wrGo rsvd len) s = .next { s with fault := true, fcause := 3, fdir := true, faddr := 0x010 }) ∧
    (rsvd = 0 → (len.toNat = 0 ∨ 16 < len.toNat) →
      exec (.wrGo rsvd len) s = .next { s with fault := true, fcause := 2, fdir := true, faddr := 0x010 }) ∧
    (rsvd = 0 → 1 ≤ len.toNat → len.toNat ≤ 16 → s.keymask ≠ 0b1111 →
      exec (.wrGo rsvd len) s = .next { s with fault := true, fcause := 1, fdir := true, faddr := 0x010 }) ∧
    (rsvd = 0 → 1 ≤ len.toNat → len.toNat ≤ 16 → s.keymask = 0b1111 →
      ∃ t, exec (.wrGo rsvd len) s = .next t ∧
        (∀ j : Fin 16, t.dout.toBlk.byte j =
          (if j.val < len.toNat then s.dinBytes.byte j else 0xFF)
            ^^^ (aes128Enc s.keyBytes s.nonceBlock).byte j) ∧
        t.nonce.x3.toNat = (s.nonce.x3.toNat + 1) % 2 ^ 32 ∧
        t = { s with dout := t.dout, dvalid := true, nonce := { s.nonce with x3 := t.nonce.x3 } })

/-- R91: WR.CTRL. CLR brings the cipher unit to its reset state and leaves CRC_ACC and the fault record; while FAULT = 1
the write is ignored altogether. -/
def Obligations.CtrlClearsTheCipherUnit : Prop :=
  (∀ (rsvd : BitVec 31) (clr : Bool) (s : State), s.fault = true → exec (.wrCtrl rsvd clr) s = .next s) ∧
  ∀ (rsvd : BitVec 31) (clr : Bool) (s : State), s.fault = false →
    (∀ w : Word, decode (T43.pack true 0x011 w) = .ok (.wrCtrl (w.extractLsb' 1 31) (w.getLsbD 0))) ∧
    (rsvd ≠ 0 →
      exec (.wrCtrl rsvd clr) s = .next { s with fault := true, fcause := 3, fdir := true, faddr := 0x011 }) ∧
    (rsvd = 0 → clr = true →
      exec (.wrCtrl rsvd clr) s =
        .next { s with
          key := ⟨0, 0, 0, 0⟩, keymask := 0, nonce := ⟨0, 0, 0, 0⟩, din := ⟨0, 0, 0, 0⟩, dout := ⟨0, 0, 0, 0⟩,
          dvalid := false }) ∧
    (rsvd = 0 → clr = false → exec (.wrCtrl rsvd clr) s = .next s)

/-! ### The CRC unit's transactions -/

/-- R140: WR.CRC_CTRL. -/
def Obligations.CrcCtrlInitialisesTheAccumulator : Prop :=
  ∀ (rsvd : BitVec 31) (init : Bool) (s : State), s.fault = false →
    (∀ w : Word, decode (T43.pack true 0x023 w) = .ok (.wrCrcCtrl (w.extractLsb' 1 31) (w.getLsbD 0))) ∧
    (rsvd ≠ 0 →
      exec (.wrCrcCtrl rsvd init) s = .next { s with fault := true, fcause := 3, fdir := true, faddr := 0x023 }) ∧
    (rsvd = 0 → init = true → exec (.wrCrcCtrl rsvd init) s = .next { s with crcAcc := 0xFFFFFFFF }) ∧
    (rsvd = 0 → init = false → exec (.wrCrcCtrl rsvd init) s = .next s)

/-- R141: WR.CRC_DATA, the shift and the index written as arithmetic on numbers (R162). -/
def Obligations.CrcDataFeedsOneByte : Prop :=
  ∀ (rsvd : BitVec 24) (b : Byte) (s : State), s.fault = false →
    (∀ w : Word, decode (T43.pack true 0x020 w) = .ok (.wrCrcData (w.extractLsb' 8 24) (w.extractLsb' 0 8))) ∧
    (rsvd ≠ 0 →
      exec (.wrCrcData rsvd b) s = .next { s with fault := true, fcause := 3, fdir := true, faddr := 0x020 }) ∧
    (rsvd = 0 →
      exec (.wrCrcData rsvd b) s =
        .next { s with
          crcAcc := BitVec.ofNat 32 (s.crcAcc.toNat * 2 ^ 8 % 2 ^ 32)
            ^^^ Config.crcTable (BitVec.ofNat 8 (s.crcAcc.toNat / 2 ^ 24) ^^^ b) })

/-- R142, R143, R144: the reads of the CRC unit answer in every state and change nothing; NOT_32(acc) is
2^32 - 1 - acc (R162). -/
def Obligations.CrcReadsAnswerAccumulatorResultAndTable : Prop :=
  ∀ (idx : Byte) (d : Word) (s : State),
    decode (T43.pack false 0x021 d) = .ok .rdCrcAcc ∧
    decode (T43.pack false 0x022 d) = .ok .rdCrcResult ∧
    decode (T43.pack false (BitVec.ofNat 10 (0x100 + idx.toNat)) d) = .ok (.rdCrcTable idx) ∧
    exec .rdCrcAcc s = .next { s with responses := s.responses ++ [s.crcAcc] } ∧
    exec .rdCrcResult s =
      .next { s with responses := s.responses ++ [BitVec.ofNat 32 (2 ^ 32 - 1 - s.crcAcc.toNat)] } ∧
    exec (.rdCrcTable idx) s = .next { s with responses := s.responses ++ [Config.crcTable idx] }

/-! ### The status read -/

/-- R160 and R27: RD.STATUS answers in every state; each field at its bits, the reserved bits 0. -/
def Obligations.StatusShowsEveryField : Prop :=
  ∀ (d : Word) (s : State),
    decode (T43.pack false 0x030 d) = .ok .rdStatus ∧
    ∃ v : Word, exec .rdStatus s = .next { s with responses := s.responses ++ [v] } ∧
      v.toNat = s.fault.toNat + s.dvalid.toNat * 2 ^ 1 + s.fcause.toNat * 2 ^ 4 + s.keymask.toNat * 2 ^ 8
        + s.faddr.toNat * 2 ^ 16 + s.fdir.toNat * 2 ^ 28 ∧
      v.extractLsb' 2 2 = 0 ∧ v.extractLsb' 12 4 = 0 ∧ v.extractLsb' 26 2 = 0 ∧ v.extractLsb' 29 3 = 0

/-! ### Illegal transactions, faults and the halted block -/

/-- R65: the ten wrong-direction transactions, by their direction and index; each raises BADACC, and a read among them
returns 0. -/
def Obligations.WrongDirectionRaisesBadacc : Prop :=
  (∀ (i : Fin 4) (idx : Byte) (d : Word),
    decode (T43.pack false (BitVec.ofNat 10 (0x000 + i.val)) d) = .ok (.illegalRdKey i) ∧
    decode (T43.pack true (BitVec.ofNat 10 (0x00C + i.val)) d) = .ok (.illegalWrDout i) ∧
    decode (T43.pack false 0x010 d) = .ok .illegalRdGo ∧
    decode (T43.pack false 0x011 d) = .ok .illegalRdCtrl ∧
    decode (T43.pack false 0x020 d) = .ok .illegalRdCrcData ∧
    decode (T43.pack true 0x021 d) = .ok .illegalWrCrcAcc ∧
    decode (T43.pack true 0x022 d) = .ok .illegalWrCrcResult ∧
    decode (T43.pack false 0x023 d) = .ok .illegalRdCrcCtrl ∧
    decode (T43.pack true 0x030 d) = .ok .illegalWrStatus ∧
    decode (T43.pack true (BitVec.ofNat 10 (0x100 + idx.toNat)) d) = .ok (.illegalWrCrcTable idx)) ∧
  ∀ (i : Fin 4) (idx : Byte) (s : State), s.fault = false →
    exec (.illegalRdKey i) s =
      .next { s with fault := true, fcause := 3, fdir := false, faddr := BitVec.ofNat 10 (0x000 + i.val),
                     responses := s.responses ++ [0] } ∧
    exec (.illegalWrDout i) s =
      .next { s with fault := true, fcause := 3, fdir := true, faddr := BitVec.ofNat 10 (0x00C + i.val) } ∧
    exec .illegalRdGo s =
      .next { s with fault := true, fcause := 3, fdir := false, faddr := 0x010, responses := s.responses ++ [0] } ∧
    exec .illegalRdCtrl s =
      .next { s with fault := true, fcause := 3, fdir := false, faddr := 0x011, responses := s.responses ++ [0] } ∧
    exec .illegalRdCrcData s =
      .next { s with fault := true, fcause := 3, fdir := false, faddr := 0x020, responses := s.responses ++ [0] } ∧
    exec .illegalWrCrcAcc s = .next { s with fault := true, fcause := 3, fdir := true, faddr := 0x021 } ∧
    exec .illegalWrCrcResult s = .next { s with fault := true, fcause := 3, fdir := true, faddr := 0x022 } ∧
    exec .illegalRdCrcCtrl s =
      .next { s with fault := true, fcause := 3, fdir := false, faddr := 0x023, responses := s.responses ++ [0] } ∧
    exec .illegalWrStatus s = .next { s with fault := true, fcause := 3, fdir := true, faddr := 0x030 } ∧
    exec (.illegalWrCrcTable idx) s =
      .next { s with fault := true, fcause := 3, fdir := true, faddr := BitVec.ofNat 10 (0x100 + idx.toNat) }

/-- R63: an access to a reserved index, served by a step, raises BADACC; a read of one returns 0. -/
def Obligations.ReservedIndexRaisesBadacc : Prop :=
  ∀ (x : T43) (rest : List PortEvent) (s : State), s.pending = .txn x :: rest → s.fault = false →
    ((0x012 ≤ x.widx.toNat ∧ x.widx.toNat ≤ 0x01F) ∨ (0x024 ≤ x.widx.toNat ∧ x.widx.toNat ≤ 0x02F) ∨
      (0x031 ≤ x.widx.toNat ∧ x.widx.toNat ≤ 0x0FF) ∨ (0x200 ≤ x.widx.toNat ∧ x.widx.toNat ≤ 0x3FF)) →
    step s = .next { s with
      fault := true, fcause := 3, fdir := x.dir, faddr := x.widx, pending := rest,
      responses := if x.dir then s.responses else s.responses ++ [0] }

/-- R175 and R66: the halted block. Every write transaction is ignored; every legal read answers; every other read
answers 0 and records nothing. -/
def Obligations.HaltedBlockIgnoresWritesAndAnswersReads : Prop :=
  ∀ (x : T43) (i : Fin 4) (idx : Byte) (s : State), s.fault = true →
    (x.dir = true → runTxn x s = .next s) ∧
    (x.dir = false → (∀ j, decode x = .ok j → j.isIllegal = true) →
      runTxn x s = .next { s with responses := s.responses ++ [0] }) ∧
    exec (.rdNonce i) s = .next { s with responses := s.responses ++ [s.nonce.get i] } ∧
    exec (.rdDin i) s = .next { s with responses := s.responses ++ [s.din.get i] } ∧
    exec (.rdDout i) s = .next { s with responses := s.responses ++ [s.dout.get i] } ∧
    exec .rdCrcAcc s = .next { s with responses := s.responses ++ [s.crcAcc] } ∧
    exec .rdCrcResult s = .next { s with responses := s.responses ++ [~~~ s.crcAcc] } ∧
    exec .rdStatus s = .next { s with responses := s.responses ++ [s.statusWord] } ∧
    exec (.rdCrcTable idx) s = .next { s with responses := s.responses ++ [Config.crcTable idx] }

/-- R174: faults are precise. A transaction that leaves FAULT = 1 has written the record of its own direction and index
and nothing else; a read among them returned 0. -/
def Obligations.FaultsArePrecise : Prop :=
  ∀ (x : T43) (s t : State), s.fault = false → runTxn x s = .next t → t.fault = true →
    t.fcause ≠ 0 ∧ t.fcause = causeOf (decode x) s.keymask ∧
    t = { s with
      fault := true, fcause := t.fcause, fdir := x.dir, faddr := x.widx,
      responses := if x.dir then s.responses else s.responses ++ [0] }

/-- R170 and R176: which transactions raise what, with the tests in their order; every other transaction, the ten of R170
among them, raises nothing. -/
def Obligations.EveryTransactionRaisesItsCause : Prop :=
  ∀ (x : T43) (s : State), s.fault = false →
    ∃ t, runTxn x s = .next t ∧
      (causeOf (decode x) s.keymask = 0 → t.fault = false ∧ t.fcause = s.fcause ∧ t.fdir = s.fdir ∧ t.faddr = s.faddr) ∧
      (causeOf (decode x) s.keymask ≠ 0 →
        t.fault = true ∧ t.fcause = causeOf (decode x) s.keymask ∧ t.fdir = x.dir ∧ t.faddr = x.widx)

/-- R62, R64, R171: a well-formed transaction raises nothing but KEYLEN, and that only as a GO with an incomplete key. -/
def Obligations.WellFormedRaisesOnlyKeylen : Prop :=
  ∀ (i : Instr) (s t : State), i.WellFormed → s.fault = false → exec i s = .next t → t.fault = true →
    t.fcause = 1 ∧ s.keymask ≠ 0b1111 ∧ ∃ len, i = .wrGo 0 len

/-- R179 and R190: no step but a reset clears FAULT or changes the record of the first fault. -/
def Obligations.OnlyResetEndsAFault : Prop :=
  ∀ (s t : State), s.fault = true → step s = .next t →
    (t.fault = true ∧ t.fcause = s.fcause ∧ t.fdir = s.fdir ∧ t.faddr = s.faddr) ∨
    (∃ rest, s.pending = .reset :: rest)

/-! ### Reset, the step and the port -/

/-- R190 and R28: the state after reset, and the reset event served by a step in any state, halted or not. No
transaction clears FAULT. That a reset leaves responses and the rest of pending as they are is the model's choice, on which
R190 is silent (log entry 6, DESIGN CHOICE). -/
def Obligations.ResetSetsEveryElement : Prop :=
  (State.reset.key = ⟨0, 0, 0, 0⟩ ∧ State.reset.keymask = 0 ∧ State.reset.nonce = ⟨0, 0, 0, 0⟩ ∧
    State.reset.din = ⟨0, 0, 0, 0⟩ ∧ State.reset.dout = ⟨0, 0, 0, 0⟩ ∧ State.reset.dvalid = false ∧
    State.reset.crcAcc = 0xFFFFFFFF ∧ State.reset.fault = false ∧ State.reset.fcause = 0 ∧
    State.reset.fdir = false ∧ State.reset.faddr = 0) ∧
  (∀ (x : T43) (s t : State), s.fault = true → runTxn x s = .next t → t.fault = true) ∧
  ∀ (rest : List PortEvent) (s : State), s.pending = .reset :: rest →
    ∃ t, step s = .next t ∧
      t.key = ⟨0, 0, 0, 0⟩ ∧ t.keymask = 0 ∧ t.nonce = ⟨0, 0, 0, 0⟩ ∧ t.din = ⟨0, 0, 0, 0⟩ ∧
      t.dout = ⟨0, 0, 0, 0⟩ ∧ t.dvalid = false ∧ t.crcAcc = 0xFFFFFFFF ∧ t.fault = false ∧ t.fcause = 0 ∧
      t.fdir = false ∧ t.faddr = 0 ∧ t.pending = rest ∧ t.responses = s.responses

/-- R191: right after reset STATUS, CRC_RESULT, NONCE, DIN and DOUT read 0. -/
def Obligations.ReadsAfterResetAreZero : Prop :=
  ∀ i : Fin 4,
    exec .rdStatus State.reset = .next { State.reset with responses := [0] } ∧
    exec .rdCrcResult State.reset = .next { State.reset with responses := [0] } ∧
    exec (.rdNonce i) State.reset = .next { State.reset with responses := [0] } ∧
    exec (.rdDin i) State.reset = .next { State.reset with responses := [0] } ∧
    exec (.rdDout i) State.reset = .next { State.reset with responses := [0] }

/-- R46, R49: a step serves the transaction at the head of the list, and the one decoded from its word; what is added
around exec is only that the event is taken off the list. With withFetchWord the transaction given is the one served. -/
def Obligations.StepRunsTheDecodedTransaction : Prop :=
  (∀ (x : T43) (rest : List PortEvent) (s : State), s.pending = .txn x :: rest →
    step s = runTxn x { s with pending := rest }) ∧
  (∀ (x : T43) (i : Instr) (rest : List PortEvent) (s : State), s.pending = .txn x :: rest → decode x = .ok i →
    step s = exec i { s with pending := rest }) ∧
  (∀ (i : Instr) (s : State), step (s.withFetchWord 48 (encode i).toNat) = exec i s)

/-- R6, R5: the block never stops. Every step answers a next state; it takes exactly the first event off the list, and
does nothing at all when there is none (log entry 3). -/
def Obligations.EveryStepAnswers : Prop :=
  ∀ s : State, ∃ t, step s = .next t ∧ t.pending = s.pending.tail ∧ (s.pending = [] → t = s)

/-! ### Encodings -/

/-- R60, R61, R65: the decoder reads every instruction back from its word, well formed or not, with every operand. -/
def Obligations.DecodeReadsBackEveryEncoding : Prop :=
  ∀ i : Instr, decode (encode i) = .ok i

/-- R60, R65: the decoder keeps every bit its row reads. A decoded word is encoded again to itself, or, for a read or a
wrong-direction write, whose 32 data bits are ignored, to itself with the data bits 0 (log entry 7, DEDUCED). -/
def Obligations.DecodingKeepsEveryBitItsRowReads : Prop :=
  ∀ (x : T43) (i : Instr), decode x = .ok i →
    encode i = if i.ignoresData then T43.pack x.dir x.widx 0 else x

/-- R61: a transaction word decodes to the row whose match and mask it meets, and to no other. -/
def Obligations.DecodeFollowsTheOperationMap : Prop :=
  ∀ (x : T43) (r : OpRow), r ∈ legalRows ++ wrongDirectionRows →
    (x &&& r.mask = r.value ↔ ∃ i, decode x = .ok i ∧ i.mnemonic = r.mnemonic)

/-- R63, R48, R40: the decoder rejects exactly the reserved word indices, in both directions, with the direction and
index of the word; 279 of the 1024 indices are mapped. -/
def Obligations.DecodeRejectsExactlyTheReservedIndices : Prop :=
  (∀ (x : T43) (e : DecodeError),
    decode x = .error e ↔ e = .reserved x.dir x.widx ∧ reservedIndex x.widx = true) ∧
  ((List.range 1024).filter fun n => !reservedIndex (BitVec.ofNat 10 n)).length = 279

/-- R26, R65: every register is at its index and at no other, and an access is decoded to a wrong-direction row exactly
when the access column forbids its direction. -/
def Obligations.RegisterMapGivesIndexAndAccess : Prop :=
  (∀ (w : Widx) (r : Reg), regAt w = some r ↔ w = r.widx) ∧
  (∀ (x : T43) (r : Reg) (i : Instr), regAt x.widx = some r → decode x = .ok i →
    (i.isIllegal = false ↔ r.access.allows x.dir = true))

/-- R61, R68: words written out from the encodings of the spec decode to what they stand for. -/
def Obligations.WrittenOutWordsDecode : Prop :=
  decode 0x40209CF4F3C = .ok (.wrKey 2 0x09CF4F3C) ∧
  decode 0x407FFFFFFFF = .ok (.wrNonce 3 0xFFFFFFFF) ∧
  decode 0x00D00000000 = .ok (.rdDout 1) ∧
  decode 0x41000000005 = .ok (.wrGo 0 5) ∧
  decode 0x41100000003 = .ok (.wrCtrl 1 true) ∧
  decode 0x42000000139 = .ok (.wrCrcData 1 0x39) ∧
  decode 0x1FF00000000 = .ok (.rdCrcTable 0xFF) ∧
  decode 0x03000000000 = .ok .rdStatus ∧
  decode 0x01000000000 = .ok .illegalRdGo ∧
  decode 0x7FF00000005 = .error (.reserved true 0x3FF)

/-- R26, R45, R54, R55, for the window at any base, this hardware's BASE among them: a whole word at byte offset 4*widx
above base is the transaction on widx; an access of another width or off a word boundary is none. Two clauses are the
model's: an access outside the window is none (log entry 9, DEDUCED), and addresses do not wrap, so that nothing below base
is in the window (log entry 4, DESIGN CHOICE). -/
def Obligations.OnlyWholeWordsAreTransactions : Prop :=
  (∀ (dir : Bool) (addr bytes : Nat) (v : Word),
    hostAccess dir addr bytes v = hostAccessAt Config.base dir addr bytes v) ∧
  ∀ (base : Nat) (dir : Bool) (v : Word),
    (∀ w : Widx, hostAccessAt base dir (base + 4 * w.toNat) 4 v = some (T43.pack dir w v)) ∧
    (∀ addr bytes : Nat,
      (bytes ≠ 4 ∨ addr < base ∨ base + 4096 ≤ addr ∨ (addr - base) % 4 ≠ 0) →
        hostAccessAt base dir addr bytes v = none)

/-! ### Rules about the whole block -/

/-- The invariant of Safety.lean holds after reset. -/
def Obligations.ResetMeetsTheInvariant : Prop := State.reset.Inv

/-- R19, R12, R17, R24: every step keeps the invariant, from every state that meets it. -/
def Obligations.EveryStepKeepsTheInvariant : Prop :=
  ∀ (s t : State), s.Inv → step s = .next t → t.Inv

/-- R13, R15, R16, R18, R19, R24: each state element has only its own writers; those of the fault record are the
transactions that enter a fault. -/
def Obligations.EachElementHasOnlyItsWriters : Prop :=
  ∀ (x : T43) (s t : State), runTxn x s = .next t →
    (∀ j, t.key.get j ≠ s.key.get j → (∃ v, decode x = .ok (.wrKey j v)) ∨ decode x = .ok (.wrCtrl 0 true)) ∧
    (∀ j : Fin 4, t.keymask.getLsbD j.val ≠ s.keymask.getLsbD j.val →
      (∃ v, decode x = .ok (.wrKey j v)) ∨ decode x = .ok (.wrCtrl 0 true)) ∧
    (∀ j, t.nonce.get j ≠ s.nonce.get j →
      (∃ v, decode x = .ok (.wrNonce j v)) ∨ decode x = .ok (.wrCtrl 0 true) ∨
      (j = 3 ∧ ∃ len, decode x = .ok (.wrGo 0 len))) ∧
    (∀ j, t.din.get j ≠ s.din.get j → (∃ v, decode x = .ok (.wrDin j v)) ∨ decode x = .ok (.wrCtrl 0 true)) ∧
    (t.dout ≠ s.dout → (∃ len, decode x = .ok (.wrGo 0 len)) ∨ decode x = .ok (.wrCtrl 0 true)) ∧
    (t.dvalid ≠ s.dvalid →
      (t.dvalid = true ∧ ∃ len, decode x = .ok (.wrGo 0 len)) ∨
      (t.dvalid = false ∧ decode x = .ok (.wrCtrl 0 true))) ∧
    (t.crcAcc ≠ s.crcAcc → (∃ b, decode x = .ok (.wrCrcData 0 b)) ∨ decode x = .ok (.wrCrcCtrl 0 true)) ∧
    (t.fault ≠ s.fault ∨ t.fcause ≠ s.fcause ∨ t.fdir ≠ s.fdir ∨ t.faddr ≠ s.faddr →
      s.fault = false ∧ causeOf (decode x) s.keymask ≠ 0)

/-- R47: a legal read changes nothing but the response it gives, and the writes R47 calls idempotent are so. -/
def Obligations.ReadsHaveNoEffectAndTheseWritesRepeat : Prop :=
  (∀ (i : Instr) (s : State), i.isWrite = false → i.isIllegal = false →
    ∃ v, exec i s = .next { s with responses := s.responses ++ [v] }) ∧
  (∀ (n : Fin 4) (v : Word) (b : Bool) (s : State),
    (∃ t, exec (.wrKey n v) s = .next t ∧ exec (.wrKey n v) t = .next t) ∧
    (∃ t, exec (.wrNonce n v) s = .next t ∧ exec (.wrNonce n v) t = .next t) ∧
    (∃ t, exec (.wrDin n v) s = .next t ∧ exec (.wrDin n v) t = .next t) ∧
    (∃ t, exec (.wrCtrl 0 b) s = .next t ∧ exec (.wrCtrl 0 b) t = .next t) ∧
    (∃ t, exec (.wrCrcCtrl 0 b) s = .next t ∧ exec (.wrCrcCtrl 0 b) t = .next t))

/-- R203: the two units share no state but the fault latch. Each leaves the other's registers, and a cipher transaction
and a CRC transaction, not both reads, may change places when neither of them faults. -/
def Obligations.TheUnitsDoNotDisturbEachOther : Prop :=
  (∀ (i : Instr) (s t : State), isCipherUnit i = true → exec i s = .next t → t.crcAcc = s.crcAcc) ∧
  (∀ (i : Instr) (s t : State), isCrcUnit i = true → exec i s = .next t →
    t.key = s.key ∧ t.keymask = s.keymask ∧ t.nonce = s.nonce ∧ t.din = s.din ∧ t.dout = s.dout ∧
      t.dvalid = s.dvalid) ∧
  (∀ (i j : Instr) (s a b : State), isCipherUnit i = true → isCrcUnit j = true →
    (i.isWrite = true ∨ j.isWrite = true) → s.fault = false →
    exec i s = .next a → exec j a = .next b → b.fault = false →
    ∃ c, exec j s = .next c ∧ exec i c = .next b)

/-- R17, R24: DVALID is informational. Two states that differ only in DVALID answer every transaction but RD.STATUS
alike, and differ afterwards only in DVALID. -/
def Obligations.DvalidDecidesNothing : Prop :=
  ∀ (x : T43) (d : Bool) (s t : State), decode x ≠ .ok .rdStatus → runTxn x s = .next t →
    ∃ d', runTxn x { s with dvalid := d } = .next { t with dvalid := d' }

/-- R11, R180: the key is read only by WR.GO and cannot be read back. Two states that differ only in KEY answer every
transaction but a GO alike; a GO lets the difference into DOUT and nowhere else. -/
def Obligations.KeyIsReadOnlyByGo : Prop :=
  ∀ (x : T43) (k : Quad) (s t : State), runTxn x s = .next t →
    ((∀ rsvd len, decode x ≠ .ok (.wrGo rsvd len)) →
      ∃ k', runTxn x { s with key := k } = .next { t with key := k' }) ∧
    (∀ rsvd len, decode x = .ok (.wrGo rsvd len) →
      ∃ o, runTxn x { s with key := k } = .next { t with key := k, dout := o })

/-- R12, R17: over every sequence of events from reset that ends with FAULT = 0, KEYMASK[i] is 1 exactly when KEY[i] has
been written since the last reset or CLR, and DVALID exactly when a GO has been performed since. -/
def Obligations.MaskAndValidTellWhatHappenedSinceClear : Prop :=
  ∀ (es : List PortEvent) (t : State),
    Sys2Proof.core.run es.length { State.reset with pending := es } = .next t → t.fault = false →
    (∀ i : Fin 4, t.keymask.getLsbD i.val = keyWritten i es) ∧ t.dvalid = goPerformed es

/-- R12, R17, R175: the sequences the last statement leaves out, those that end halted. There is then a last fault entry,
by a transaction x after which no reset comes, and KEYMASK and DVALID say what had happened before x. -/
def Obligations.MaskAndValidTellWhatHadHappenedBeforeTheFault : Prop :=
  ∀ (es : List PortEvent) (t : State),
    Sys2Proof.core.run es.length { State.reset with pending := es } = .next t → t.fault = true →
    ∃ (pre post : List PortEvent) (x : T43) (u : State), es = pre ++ .txn x :: post ∧ .reset ∉ post ∧
      Sys2Proof.core.run pre.length { State.reset with pending := es } = .next u ∧
      u.fault = false ∧ causeOf (decode x) u.keymask ≠ 0 ∧
      (∀ i : Fin 4, t.keymask.getLsbD i.val = keyWritten i pre) ∧ t.dvalid = goPerformed pre

/-- R91, R193: CLR and then INIT bring an unhalted block with a coherent fault record to its reset state. -/
def Obligations.ClearAndInitGiveTheResetState : Prop :=
  ∀ s : State, s.fault = false → s.RecordCoherent →
    ∃ t, exec (.wrCtrl 0 true) s = .next t ∧
      exec (.wrCrcCtrl 0 true) t =
        .next { State.reset with pending := s.pending, responses := s.responses }

/-- R82, R13, R201: NONCE[3] counts the GOs: after any number of legal ones it holds the start value plus their number
modulo 2^32, NONCE[0..2] are as they were, and RD.NONCE 3 answers it. -/
def Obligations.NonceThreeCountsTheBlocks : Prop :=
  ∀ (lens : List (BitVec 5)) (s : State), s.fault = false → s.keymask = 0b1111 → s.pending = [] →
    (∀ l ∈ lens, 1 ≤ l.toNat ∧ l.toNat ≤ 16) →
    ∃ t, Sys2Proof.core.run lens.length (s.issue (lens.map fun l => encode (.wrGo 0 l))) = .next t ∧
      t.nonce.x3.toNat = (s.nonce.x3.toNat + lens.length) % 2 ^ 32 ∧
      t.nonce.x0 = s.nonce.x0 ∧ t.nonce.x1 = s.nonce.x1 ∧ t.nonce.x2 = s.nonce.x2 ∧
      t.din = s.din ∧ t.key = s.key ∧ t.fault = false ∧
      exec (.rdNonce 3) t = .next { t with responses := s.responses ++ [t.nonce.x3] }

/-- R69, R11: ldkeyb loads its 16 bytes as the key and completes it, and touches nothing else. -/
def Obligations.LdkeybLoadsTheSixteenKeyBytes : Prop :=
  ∀ (b : Blk) (s : State), s.fault = false → s.pending = [] →
    ∃ t, Sys2Proof.core.run 4 (s.issue (Asm.words (Asm.ldkeyb b))) = .next t ∧
      t.keyBytes = b ∧ t.keymask = 0b1111 ∧ t = { s with key := t.key, keymask := t.keymask }

/-! ### Bytes and words -/

/-- R42, R11, R14, R15, R16: the packing is big-endian. Byte 4i+j of a register group is bits [31-8j : 24-8j] of word i,
and word_be weighs its bytes by 2^24, 2^16, 2^8 and 1. -/
def Obligations.PackingIsBigEndian : Prop :=
  (∀ (q : Quad) (n : Fin 16) (i j : Fin 4), n.val = 4 * i.val + j.val →
    q.toBlk.byte n = (q.get i).extractLsb' (24 - 8 * j.val) 8) ∧
  (∀ b : Col, (wordBe b).toNat =
    b.x0.toNat * 2 ^ 24 + b.x1.toNat * 2 ^ 16 + b.x2.toNat * 2 ^ 8 + b.x3.toNat)

/-! ### AES-128 -/

/-- R127: the key schedule obeys the recurrence, and the four key registers are its first four words. The algorithm is
the spec's own from general knowledge (log entry 5). -/
def Obligations.KeyScheduleObeysTheRecurrence : Prop :=
  ∀ k : Quad,
    (∀ i : Fin 4, scheduleWord k i.val = k.get i) ∧
    (∀ i : Nat, 4 ≤ i → i ≤ 43 →
      scheduleWord k i = scheduleWord k (i - 4) ^^^
        (if i % 4 = 0 then
          subWord (rotWord (scheduleWord k (i - 1))) ^^^ ((roundConstants.getD (i / 4 - 1) 0).setWidth 32 <<< 24)
         else scheduleWord k (i - 1)))

/-- R131: under every key the cipher is a bijection of the 16-byte blocks (log entry 5, PRESUMED). -/
def Obligations.AesIsABijection : Prop := ∀ k : Blk, Function.Bijective (aes128Enc k)

/-! ### The message transform -/

/-- R95, R101: PAD adds nothing to a multiple of 16, otherwise bytes 0xFF up to the next one; ENC_BLOCKS is as long as
PAD(P). -/
def Obligations.PaddingAndLengths : Prop :=
  ∀ (n : Quad) (k : Blk) (p : List Byte),
    (p.length % 16 = 0 → pad p = p) ∧
    (p.length % 16 ≠ 0 → pad p = p ++ List.replicate (16 - p.length % 16) 0xFF) ∧
    (pad p).length % 16 = 0 ∧
    (encBlocks n k p).length = (pad p).length ∧
    (p.length % 16 = 0 → (encBlocks n k p).length = p.length) ∧
    (p.length % 16 ≠ 0 → (encBlocks n k p).length = p.length + 16 - p.length % 16)

/-- R96: ENC_BLOCKS is as long as PAD(P), and each byte of it is the padded plaintext's byte XOR the byte of the keystream
block of its own nonce. -/
def Obligations.EncBlocksIsByteByByteXor : Prop :=
  (∀ (n : Quad) (k : Blk) (p : List Byte), (encBlocks n k p).length = (pad p).length) ∧
  ∀ (n : Quad) (k : Blk) (p : List Byte) (t : Nat) (j : Fin 16), 16 * t + j.val < (pad p).length →
    (encBlocks n k p)[16 * t + j.val]? =
      (pad p)[16 * t + j.val]?.map fun b =>
        b ^^^ (aes128Enc k
          (Quad.toBlk ⟨n.x0, n.x1, n.x2, BitVec.ofNat 32 ((n.x3.toNat + t) % 2 ^ 32)⟩)).byte j

/-- R97, R99: decrypting what was encrypted from the same nonce under the same key gives the padded plaintext. -/
def Obligations.DecryptingEncryptedGivesPadded : Prop :=
  ∀ (n : Quad) (k : Blk) (p : List Byte), decBlocks n k (encBlocks n k p) = pad p

/-- R100: within one message of at most 2^32 blocks no two keystream blocks are the same, and 2^32 blocks on they
repeat. It rests on the cipher being a bijection (R131; log entry 5, PRESUMED). -/
def Obligations.KeystreamBlocksAreDistinct : Prop :=
  ∀ (n : Quad) (k : Blk) (t u : Nat),
    (t < 2 ^ 32 → u < 2 ^ 32 → t ≠ u → keystreamAt n k t ≠ keystreamAt n k u) ∧
    keystreamAt n k (t + 2 ^ 32) = keystreamAt n k t

/-- R98, R102: the driver sequence, run by the block, returns exactly ENC_BLOCKS in its reads and leaves the nonce
advanced by the number of blocks; the key writes may be left out when the key is loaded. -/
def Obligations.DriverSequenceComputesEncBlocks : Prop :=
  ∀ (n : Quad) (k : Blk) (p : List Byte) (s : State), s.fault = false → s.pending = [] →
    (∃ t rs,
      Sys2Proof.core.run (Asm.encmsg n k p).length (s.issue (Asm.words (Asm.encmsg n k p))) = .next t ∧
      t.responses = s.responses ++ rs ∧ (rs.flatMap fun w => (be32 w).toList) = encBlocks n k p ∧
      t.nonce = ⟨n.x0, n.x1, n.x2, BitVec.ofNat 32 ((n.x3.toNat + blockCount p) % 2 ^ 32)⟩ ∧
      t.keyBytes = k ∧ t.crcAcc = s.crcAcc ∧ t.fault = false ∧ t.pending = []) ∧
    (s.keymask = 0b1111 → s.keyBytes = k →
      ∃ t rs,
        Sys2Proof.core.run (Asm.ldnonce n ++ Asm.msgBlocks p).length
          (s.issue (Asm.words (Asm.ldnonce n ++ Asm.msgBlocks p))) = .next t ∧
        t.responses = s.responses ++ rs ∧ (rs.flatMap fun w => (be32 w).toList) = encBlocks n k p ∧
        t.nonce = ⟨n.x0, n.x1, n.x2, BitVec.ofNat 32 ((n.x3.toNat + blockCount p) % 2 ^ 32)⟩ ∧
        t.fault = false)

/-- R98: the bytes beyond the message's end, in the word that straddles it, may be anything. -/
def Obligations.BytesBeyondTheMessageMayBeAnything : Prop :=
  ∀ (n : Quad) (k : Blk) (p tail : List Byte) (s : State), s.fault = false → s.pending = [] →
    ∃ t rs,
      Sys2Proof.core.run (Asm.encmsgTail n k p tail).length (s.issue (Asm.words (Asm.encmsgTail n k p tail))) =
        .next t ∧
      t.responses = s.responses ++ rs ∧ (rs.flatMap fun w => (be32 w).toList) = encBlocks n k p ∧
      t.nonce = ⟨n.x0, n.x1, n.x2, BitVec.ofNat 32 ((n.x3.toNat + blockCount p) % 2 ^ 32)⟩ ∧
      t.keyBytes = k ∧ t.crcAcc = s.crcAcc ∧ t.fault = false ∧ t.pending = []

/-- R98, R203: a cipher message may be interleaved with well-formed CRC transactions and with legal reads, anywhere: its
own reads return ENC_BLOCKS all the same. The message's transactions are the tagged ones of the list. -/
def Obligations.CipherMessageMayBeInterleaved : Prop :=
  ∀ (n : Quad) (k : Blk) (p tail : List Byte) (zs : List (Bool × T43)) (s : State), s.fault = false → s.pending = [] →
    taggedWords zs = Asm.words (Asm.encmsgTail n k p tail) →
    (∀ z ∈ zs, z.1 = false → isCipherBystander z.2 = true) →
    ∃ t rs,
      Sys2Proof.core.run zs.length (s.issue (zs.map fun z => z.2)) = .next t ∧
      t.responses = s.responses ++ rs ∧ rs.length = (zs.filter fun z => !z.2.dir).length ∧
      ((taggedAnswers zs rs).flatMap fun w => (be32 w).toList) = encBlocks n k p ∧
      t.nonce = ⟨n.x0, n.x1, n.x2, BitVec.ofNat 32 ((n.x3.toNat + blockCount p) % 2 ^ 32)⟩ ∧
      t.keyBytes = k ∧ t.fault = false

/-! ### The CRC-32 function -/

/-- R146: the CRC driver sequence, run by the block, returns CRC32 of its bytes in its read, and touches nothing but the
accumulator; with the accumulator at its initial value the first line may be left out. -/
def Obligations.CrcDriverSequenceComputesCrc : Prop :=
  ∀ (data : List Byte) (s : State), s.fault = false → s.pending = [] →
    (∃ t, Sys2Proof.core.run (data.length + 2) (s.issue (Asm.words (Asm.crcmsg data))) = .next t ∧
      t.responses = s.responses ++ [crc32 Config.crcTable data] ∧
      t = { s with crcAcc := t.crcAcc, responses := t.responses }) ∧
    (s.crcAcc = 0xFFFFFFFF →
      ∃ t, Sys2Proof.core.run (data.length + 1)
          (s.issue (Asm.words (data.flatMap Asm.crcb ++ Asm.crcres))) = .next t ∧
        t.responses = s.responses ++ [crc32 Config.crcTable data])

/-- R146, R203: a CRC message may be interleaved with transactions of the cipher unit and with legal reads, anywhere. When
none of those faults, its own read returns CRC32 all the same. The message's transactions are the tagged ones. -/
def Obligations.CrcMessageMayBeInterleaved : Prop :=
  ∀ (data : List Byte) (zs : List (Bool × T43)) (s : State), s.fault = false → s.pending = [] →
    taggedWords zs = Asm.words (Asm.crcmsg data) →
    (∀ z ∈ zs, z.1 = false → isCrcBystander z.2 = true) →
    ∃ t, Sys2Proof.core.run zs.length (s.issue (zs.map fun z => z.2)) = .next t ∧
      (t.fault = false →
        ∃ rs, t.responses = s.responses ++ rs ∧ rs.length = (zs.filter fun z => !z.2.dir).length ∧
          taggedAnswers zs rs = [crc32 Config.crcTable data])

/-- R147, R150: the laws that hold for every table: the empty sequence, one byte, streaming, and at most N entries
used. -/
def Obligations.CrcLawsForEveryTable : Prop :=
  ∀ (table : Byte → Word) (data more : List Byte) (b : Byte),
    crc32 table [] = 0x00000000 ∧
    crc32 table [b] = ~~~ (0xFFFFFF00 ^^^ table (0xFF ^^^ b)) ∧
    ~~~ (crc32 table (data ++ more)) = more.foldl (crcStep table) (~~~ (crc32 table data)) ∧
    ∃ used : List Byte, used.length ≤ data.length ∧
      ∀ table' : Byte → Word, (∀ i ∈ used, table' i = table i) → crc32 table' data = crc32 table data
end

