-- ==== Sys2Proof/Laws/Aes.lean ====
section
/-! SUPPORT. The table and the doubling of Machine/Aes.lean against the definitions of R121 and R123. -/

namespace Sys2Proof

/-- Rotation of a byte to the left (R123). -/
def rotl8 (b : Byte) (n : Nat) : Byte := (b <<< n) ||| (b >>> (8 - n))

/-- The affine step of R123. -/
def sboxAffine (y : Byte) : Byte := y ^^^ rotl8 y 1 ^^^ rotl8 y 2 ^^^ rotl8 y 3 ^^^ rotl8 y 4 ^^^ 0x63

/-- The square of a byte in the field of R121. -/
def gfSquare (a : Byte) : Byte := gfMul a a

/-- a^254, the multiplicative inverse (0 for 0). -/
def gfInv (a : Byte) : Byte :=
  let a2 := gfSquare a
  let a4 := gfSquare a2
  let a8 := gfSquare a4
  let a16 := gfSquare a8
  let a32 := gfSquare a16
  let a64 := gfSquare a32
  let a128 := gfSquare a64
  gfMul a2 (gfMul a4 (gfMul a8 (gfMul a16 (gfMul a32 (gfMul a64 a128)))))

/-- It is the inverse R123 asks for. -/
theorem gfMul_gfInv : ∀ a : Byte, gfMul a (gfInv a) = if a = 0 then 0 else 1 := by decide +kernel

/-- The printed table is the algebraic definition (R123). -/
theorem sbox_eq_affine_inverse : ∀ a : Byte, sbox a = sboxAffine (gfInv a) := by decide +kernel

/-- xtime is multiplication by 0x02 (R121). -/
theorem xtime_eq_gfMul : ∀ b : Byte, xtime b = gfMul b 0x02 := by decide +kernel

/-- xtime b XOR b is multiplication by 0x03 (R121). -/
theorem mul3_eq_gfMul : ∀ b : Byte, mul3 b = gfMul b 0x03 := by decide +kernel

end Sys2Proof
end

