-- ==== Sys2Proof/Laws/Bytes.lean ====
section
/-! SUPPORT. Arrays of four, the byte order be32 / word_be, and 16-byte sequences. -/

namespace Sys2Proof

/-! ### Arrays of four -/

variable {α β γ : Type}

@[simp] theorem Four.get_zero (q : Four α) : q.get 0 = q.x0 := rfl
@[simp] theorem Four.get_one (q : Four α) : q.get 1 = q.x1 := rfl
@[simp] theorem Four.get_two (q : Four α) : q.get 2 = q.x2 := rfl
@[simp] theorem Four.get_three (q : Four α) : q.get 3 = q.x3 := rfl

/-- A statement about every index is a statement about the four of them. -/
theorem forall_four_indices {p : Fin 4 → Prop} : (∀ i, p i) ↔ p 0 ∧ p 1 ∧ p 2 ∧ p 3 := by
  constructor
  · exact fun h => ⟨h 0, h 1, h 2, h 3⟩
  · rintro ⟨h0, h1, h2, h3⟩ i
    fin_cases i <;> assumption

theorem Four.ext_get {p q : Four α} (h : ∀ i, p.get i = q.get i) : p = q :=
  Four.ext (h 0) (h 1) (h 2) (h 3)

@[simp] theorem Four.get_set_same (q : Four α) (i : Fin 4) (v : α) : (q.set i v).get i = v := by
  fin_cases i <;> rfl

theorem Four.get_set_other (q : Four α) {i j : Fin 4} (v : α) (h : j ≠ i) : (q.set i v).get j = q.get j := by
  fin_cases i <;> fin_cases j <;> first | rfl | exact absurd rfl h

@[simp] theorem Four.set_set_same (q : Four α) (i : Fin 4) (v w : α) : (q.set i v).set i w = q.set i w := by
  fin_cases i <;> rfl

@[simp] theorem Four.get_ofFn (f : Fin 4 → α) (i : Fin 4) : (Four.ofFn f).get i = f i := by
  fin_cases i <;> rfl

@[simp] theorem Four.get_map (f : α → β) (q : Four α) (i : Fin 4) : (q.map f).get i = f (q.get i) := by
  fin_cases i <;> rfl

@[simp] theorem Four.get_zipWith (f : α → β → γ) (p : Four α) (q : Four β) (i : Fin 4) :
    (Four.zipWith f p q).get i = f (p.get i) (q.get i) := by
  fin_cases i <;> rfl

/-! ### be32 and word_be are inverse -/

@[simp] theorem wordBe_be32 (w : Word) : wordBe (be32 w) = w := by
  refine BitVec.eq_of_getLsbD_eq fun i hi => ?_
  change (w.extractLsb' 24 8 ++ w.extractLsb' 16 8 ++ w.extractLsb' 8 8 ++ w.extractLsb' 0 8).getLsbD i = _
  simp only [BitVec.getLsbD_append, BitVec.getLsbD_extractLsb']
  split
  · simp [*]
  · split
    · rw [show 8 + (i - 8) = i by omega]; simp [*]
    · split
      · rw [show 16 + (i - 8 - 8) = i by omega]; simp [*]
      · rw [show 24 + (i - 8 - 8 - 8) = i by omega, decide_eq_true (show i - 8 - 8 - 8 < 8 by omega), Bool.true_and]

@[simp] theorem be32_wordBe (b : Col) : be32 (wordBe b) = b := by
  have low {n m : Nat} (x : BitVec n) (y : BitVec m) : (x ++ y).extractLsb' 0 m = y := by
    ext i hi; simp [BitVec.getLsbD_append, hi]
  have high {n m : Nat} (x : BitVec n) (y : BitVec m) (k w : Nat) :
      (x ++ y).extractLsb' (m + k) w = x.extractLsb' k w := by
    ext i hi
    simp only [BitVec.getElem_extractLsb', BitVec.getLsbD_append]
    rw [if_neg (by omega), show m + k + i - m = k + i by omega]
  have whole {n : Nat} (x : BitVec n) : x.extractLsb' 0 n = x := by simp
  apply Four.ext
  · exact (high _ b.x3 16 8).trans ((high _ b.x2 8 8).trans ((high b.x0 b.x1 0 8).trans (whole _)))
  · exact (high _ b.x3 8 8).trans ((high _ b.x2 0 8).trans (low b.x0 b.x1))
  · exact (high _ b.x3 0 8).trans (low _ b.x2)
  · exact low _ b.x3

@[simp] theorem Quad.toQuad_toBlk (q : Quad) : q.toBlk.toQuad = q := by simp [Quad.toBlk, Blk.toQuad, Four.map]

@[simp] theorem Blk.toBlk_toQuad (b : Blk) : b.toQuad.toBlk = b := by simp [Quad.toBlk, Blk.toQuad, Four.map]

/-! ### 16-byte sequences -/

/-- Byte 4i+j of a block is element j of element i. -/
theorem Blk.byte_mk (b : Blk) (i j : Fin 4) : b.byte ⟨4 * i.val + j.val, by omega⟩ = (b.get i).get j := by
  have hi : (⟨(4 * i.val + j.val) / 4, by omega⟩ : Fin 4) = i := Fin.ext (by simp; omega)
  have hj : (⟨(4 * i.val + j.val) % 4, by omega⟩ : Fin 4) = j := Fin.ext (by simp)
  unfold Blk.byte
  rw [hi, hj]

@[simp] theorem Blk.byte_ofBytes (f : Fin 16 → Byte) (j : Fin 16) : (Blk.ofBytes f).byte j = f j := by
  simp only [Blk.byte, Blk.ofBytes, Four.get_ofFn]
  congr 1
  exact Fin.ext (Nat.div_add_mod j.val 4)

@[simp] theorem Blk.byte_xor (a b : Blk) (j : Fin 16) : (a.xor b).byte j = a.byte j ^^^ b.byte j := by
  simp [Blk.byte, Blk.xor]

theorem Blk.ext_byte {a b : Blk} (h : ∀ j, a.byte j = b.byte j) : a = b := by
  refine Four.ext_get fun i => Four.ext_get fun j => ?_
  rw [← Blk.byte_mk, ← Blk.byte_mk]
  exact h _

/-- XOR with the same block twice is the identity (R99). -/
@[simp] theorem Blk.xor_xor_cancel (a k : Blk) : (a.xor k).xor k = a := by
  refine Blk.ext_byte fun j => ?_
  simp

@[simp] theorem Blk.length_toBytes (b : Blk) : b.toBytes.length = 16 := rfl

end Sys2Proof
end

