-- ==== Sys2Proof/Laws/Decode.lean ====
section
/-! SUPPORT. The fields of a packed transaction word, and what the decoder makes of it. -/

namespace Sys2Proof

/-- Bit i of a packed word: the data below bit 32, the index below bit 42, the direction at bit 42. -/
theorem T43.getLsbD_pack (dir : Bool) (w : Widx) (d : Word) (i : Nat) :
    (T43.pack dir w d).getLsbD i =
      if i < 32 then d.getLsbD i else if i - 32 < 10 then w.getLsbD (i - 32)
      else (BitVec.ofBool dir).getLsbD (i - 32 - 10) := by
  change (BitVec.ofBool dir ++ w ++ d).getLsbD i = _
  simp only [BitVec.getLsbD_append]

@[simp] theorem T43.dir_pack (dir : Bool) (w : Widx) (d : Word) : (T43.pack dir w d).dir = dir := by
  rw [T43.dir, T43.getLsbD_pack]
  cases dir <;> rfl

@[simp] theorem T43.widx_pack (dir : Bool) (w : Widx) (d : Word) : (T43.pack dir w d).widx = w := by
  refine BitVec.eq_of_getLsbD_eq fun i hi => ?_
  rw [T43.widx, BitVec.getLsbD_extractLsb', T43.getLsbD_pack, if_neg (by omega), show 32 + i - 32 = i by omega,
    if_pos hi, decide_eq_true hi, Bool.true_and]

@[simp] theorem T43.wdata_pack (dir : Bool) (w : Widx) (d : Word) : (T43.pack dir w d).wdata = d := by
  refine BitVec.eq_of_getLsbD_eq fun i hi => ?_
  rw [T43.wdata, BitVec.getLsbD_extractLsb', T43.getLsbD_pack, if_pos (by omega), Nat.zero_add, decide_eq_true hi,
    Bool.true_and]

/-- A transaction word is its three fields (R60). -/
theorem T43.pack_fields (t : T43) : T43.pack t.dir t.widx t.wdata = t := by
  refine BitVec.eq_of_getLsbD_eq fun i hi => ?_
  rw [T43.getLsbD_pack]
  split
  · rename_i h
    rw [T43.wdata, BitVec.getLsbD_extractLsb', Nat.zero_add, decide_eq_true h, Bool.true_and]
  · split
    · rename_i h
      rw [T43.widx, BitVec.getLsbD_extractLsb', show 32 + (i - 32) = i by omega, decide_eq_true h, Bool.true_and]
    · have h : i = 42 := by omega
      subst h
      simp [T43.dir]

/-- What the decoder reads from a packed word at a mapped index. -/
theorem decode_pack {w : Widx} {r : Reg} (h : regAt w = some r) (dir : Bool) (d : Word) :
    decode (T43.pack dir w d) = .ok (if dir then decodeWrite d r else decodeRead r) := by
  simp [decode, h]

/-- What the decoder reads from a packed word at a reserved index. -/
theorem decode_pack_reserved {w : Widx} (h : regAt w = none) (dir : Bool) (d : Word) :
    decode (T43.pack dir w d) = .error (.reserved dir w) := by
  simp [decode, h]

/-- Every register is found at its own word index (R26). -/
@[simp] theorem regAt_widx (r : Reg) : regAt r.widx = some r := by
  cases r with
  | key i => revert i; decide
  | nonce i => revert i; decide
  | din i => revert i; decide
  | dout i => revert i; decide
  | go => decide
  | ctrl => decide
  | crcData => decide
  | crcAcc => decide
  | crcResult => decide
  | crcCtrl => decide
  | status => decide
  | crcTable idx => revert idx; decide +kernel

/-- The operand fields of a write put together and cut apart again (R62, R64). -/
theorem extract_low_append {n m : Nat} (x : BitVec n) (y : BitVec m) : (x ++ y).extractLsb' 0 m = y := by
  ext i hi; simp [BitVec.getLsbD_append, hi]

theorem extract_high_append {n m : Nat} (x : BitVec n) (y : BitVec m) : (x ++ y).extractLsb' m n = x := by
  refine BitVec.eq_of_getLsbD_eq fun i hi => ?_
  rw [BitVec.getLsbD_extractLsb', BitVec.getLsbD_append, if_neg (by omega), show m + i - m = i by omega,
    decide_eq_true hi, Bool.true_and]

theorem bit_zero_append {n : Nat} (x : BitVec n) (b : Bool) : (x ++ BitVec.ofBool b).getLsbD 0 = b := by
  rw [BitVec.getLsbD_append, if_pos Nat.zero_lt_one]
  cases b <;> rfl

end Sys2Proof
end

