-- ==== Sys2Proof/Laws/State.lean ====
section
/-! SUPPORT. One lemma per field per named update of the state, so that no proof unfolds a record update. -/

namespace Sys2Proof.Machine

/-! ### loadKey -/

@[simp] theorem loadKey_key (i : Fin 4) (v : Word) (s : State) : (s.loadKey i v).key = s.key.set i v := rfl
@[simp] theorem loadKey_keymask (i : Fin 4) (v : Word) (s : State) :
    (s.loadKey i v).keymask = maskWith s.keymask i := rfl
@[simp] theorem loadKey_nonce (i : Fin 4) (v : Word) (s : State) : (s.loadKey i v).nonce = s.nonce := rfl
@[simp] theorem loadKey_din (i : Fin 4) (v : Word) (s : State) : (s.loadKey i v).din = s.din := rfl
@[simp] theorem loadKey_dout (i : Fin 4) (v : Word) (s : State) : (s.loadKey i v).dout = s.dout := rfl
@[simp] theorem loadKey_dvalid (i : Fin 4) (v : Word) (s : State) : (s.loadKey i v).dvalid = s.dvalid := rfl
@[simp] theorem loadKey_crcAcc (i : Fin 4) (v : Word) (s : State) : (s.loadKey i v).crcAcc = s.crcAcc := rfl
@[simp] theorem loadKey_fault (i : Fin 4) (v : Word) (s : State) : (s.loadKey i v).fault = s.fault := rfl
@[simp] theorem loadKey_fcause (i : Fin 4) (v : Word) (s : State) : (s.loadKey i v).fcause = s.fcause := rfl
@[simp] theorem loadKey_fdir (i : Fin 4) (v : Word) (s : State) : (s.loadKey i v).fdir = s.fdir := rfl
@[simp] theorem loadKey_faddr (i : Fin 4) (v : Word) (s : State) : (s.loadKey i v).faddr = s.faddr := rfl
@[simp] theorem loadKey_pending (i : Fin 4) (v : Word) (s : State) : (s.loadKey i v).pending = s.pending := rfl
@[simp] theorem loadKey_responses (i : Fin 4) (v : Word) (s : State) : (s.loadKey i v).responses = s.responses := rfl

/-! ### loadNonce -/

@[simp] theorem loadNonce_key (i : Fin 4) (v : Word) (s : State) : (s.loadNonce i v).key = s.key := rfl
@[simp] theorem loadNonce_keymask (i : Fin 4) (v : Word) (s : State) : (s.loadNonce i v).keymask = s.keymask := rfl
@[simp] theorem loadNonce_nonce (i : Fin 4) (v : Word) (s : State) : (s.loadNonce i v).nonce = s.nonce.set i v := rfl
@[simp] theorem loadNonce_din (i : Fin 4) (v : Word) (s : State) : (s.loadNonce i v).din = s.din := rfl
@[simp] theorem loadNonce_dout (i : Fin 4) (v : Word) (s : State) : (s.loadNonce i v).dout = s.dout := rfl
@[simp] theorem loadNonce_dvalid (i : Fin 4) (v : Word) (s : State) : (s.loadNonce i v).dvalid = s.dvalid := rfl
@[simp] theorem loadNonce_crcAcc (i : Fin 4) (v : Word) (s : State) : (s.loadNonce i v).crcAcc = s.crcAcc := rfl
@[simp] theorem loadNonce_fault (i : Fin 4) (v : Word) (s : State) : (s.loadNonce i v).fault = s.fault := rfl
@[simp] theorem loadNonce_fcause (i : Fin 4) (v : Word) (s : State) : (s.loadNonce i v).fcause = s.fcause := rfl
@[simp] theorem loadNonce_fdir (i : Fin 4) (v : Word) (s : State) : (s.loadNonce i v).fdir = s.fdir := rfl
@[simp] theorem loadNonce_faddr (i : Fin 4) (v : Word) (s : State) : (s.loadNonce i v).faddr = s.faddr := rfl
@[simp] theorem loadNonce_pending (i : Fin 4) (v : Word) (s : State) : (s.loadNonce i v).pending = s.pending := rfl
@[simp] theorem loadNonce_responses (i : Fin 4) (v : Word) (s : State) :
    (s.loadNonce i v).responses = s.responses := rfl

/-! ### loadDin -/

@[simp] theorem loadDin_key (i : Fin 4) (v : Word) (s : State) : (s.loadDin i v).key = s.key := rfl
@[simp] theorem loadDin_keymask (i : Fin 4) (v : Word) (s : State) : (s.loadDin i v).keymask = s.keymask := rfl
@[simp] theorem loadDin_nonce (i : Fin 4) (v : Word) (s : State) : (s.loadDin i v).nonce = s.nonce := rfl
@[simp] theorem loadDin_din (i : Fin 4) (v : Word) (s : State) : (s.loadDin i v).din = s.din.set i v := rfl
@[simp] theorem loadDin_dout (i : Fin 4) (v : Word) (s : State) : (s.loadDin i v).dout = s.dout := rfl
@[simp] theorem loadDin_dvalid (i : Fin 4) (v : Word) (s : State) : (s.loadDin i v).dvalid = s.dvalid := rfl
@[simp] theorem loadDin_crcAcc (i : Fin 4) (v : Word) (s : State) : (s.loadDin i v).crcAcc = s.crcAcc := rfl
@[simp] theorem loadDin_fault (i : Fin 4) (v : Word) (s : State) : (s.loadDin i v).fault = s.fault := rfl
@[simp] theorem loadDin_fcause (i : Fin 4) (v : Word) (s : State) : (s.loadDin i v).fcause = s.fcause := rfl
@[simp] theorem loadDin_fdir (i : Fin 4) (v : Word) (s : State) : (s.loadDin i v).fdir = s.fdir := rfl
@[simp] theorem loadDin_faddr (i : Fin 4) (v : Word) (s : State) : (s.loadDin i v).faddr = s.faddr := rfl
@[simp] theorem loadDin_pending (i : Fin 4) (v : Word) (s : State) : (s.loadDin i v).pending = s.pending := rfl
@[simp] theorem loadDin_responses (i : Fin 4) (v : Word) (s : State) : (s.loadDin i v).responses = s.responses := rfl

/-! ### processBlock -/

@[simp] theorem processBlock_key (len : BitVec 5) (s : State) : (s.processBlock len).key = s.key := rfl
@[simp] theorem processBlock_keymask (len : BitVec 5) (s : State) : (s.processBlock len).keymask = s.keymask := rfl
@[simp] theorem processBlock_nonce (len : BitVec 5) (s : State) :
    (s.processBlock len).nonce = { s.nonce with x3 := s.nonce.x3 + 1 } := rfl
@[simp] theorem processBlock_din (len : BitVec 5) (s : State) : (s.processBlock len).din = s.din := rfl
@[simp] theorem processBlock_dout (len : BitVec 5) (s : State) :
    (s.processBlock len).dout = (s.outBlk len).toQuad := rfl
@[simp] theorem processBlock_dvalid (len : BitVec 5) (s : State) : (s.processBlock len).dvalid = true := rfl
@[simp] theorem processBlock_crcAcc (len : BitVec 5) (s : State) : (s.processBlock len).crcAcc = s.crcAcc := rfl
@[simp] theorem processBlock_fault (len : BitVec 5) (s : State) : (s.processBlock len).fault = s.fault := rfl
@[simp] theorem processBlock_fcause (len : BitVec 5) (s : State) : (s.processBlock len).fcause = s.fcause := rfl
@[simp] theorem processBlock_fdir (len : BitVec 5) (s : State) : (s.processBlock len).fdir = s.fdir := rfl
@[simp] theorem processBlock_faddr (len : BitVec 5) (s : State) : (s.processBlock len).faddr = s.faddr := rfl
@[simp] theorem processBlock_pending (len : BitVec 5) (s : State) : (s.processBlock len).pending = s.pending := rfl
@[simp] theorem processBlock_responses (len : BitVec 5) (s : State) :
    (s.processBlock len).responses = s.responses := rfl

/-! ### clearCipher -/

@[simp] theorem clearCipher_key (s : State) : (s.clearCipher).key = ⟨0, 0, 0, 0⟩ := rfl
@[simp] theorem clearCipher_keymask (s : State) : (s.clearCipher).keymask = 0 := rfl
@[simp] theorem clearCipher_nonce (s : State) : (s.clearCipher).nonce = ⟨0, 0, 0, 0⟩ := rfl
@[simp] theorem clearCipher_din (s : State) : (s.clearCipher).din = ⟨0, 0, 0, 0⟩ := rfl
@[simp] theorem clearCipher_dout (s : State) : (s.clearCipher).dout = ⟨0, 0, 0, 0⟩ := rfl
@[simp] theorem clearCipher_dvalid (s : State) : (s.clearCipher).dvalid = false := rfl
@[simp] theorem clearCipher_crcAcc (s : State) : (s.clearCipher).crcAcc = s.crcAcc := rfl
@[simp] theorem clearCipher_fault (s : State) : (s.clearCipher).fault = s.fault := rfl
@[simp] theorem clearCipher_fcause (s : State) : (s.clearCipher).fcause = s.fcause := rfl
@[simp] theorem clearCipher_fdir (s : State) : (s.clearCipher).fdir = s.fdir := rfl
@[simp] theorem clearCipher_faddr (s : State) : (s.clearCipher).faddr = s.faddr := rfl
@[simp] theorem clearCipher_pending (s : State) : (s.clearCipher).pending = s.pending := rfl
@[simp] theorem clearCipher_responses (s : State) : (s.clearCipher).responses = s.responses := rfl

/-! ### crcRestart -/

@[simp] theorem crcRestart_key (s : State) : (s.crcRestart).key = s.key := rfl
@[simp] theorem crcRestart_keymask (s : State) : (s.crcRestart).keymask = s.keymask := rfl
@[simp] theorem crcRestart_nonce (s : State) : (s.crcRestart).nonce = s.nonce := rfl
@[simp] theorem crcRestart_din (s : State) : (s.crcRestart).din = s.din := rfl
@[simp] theorem crcRestart_dout (s : State) : (s.crcRestart).dout = s.dout := rfl
@[simp] theorem crcRestart_dvalid (s : State) : (s.crcRestart).dvalid = s.dvalid := rfl
@[simp] theorem crcRestart_crcAcc (s : State) : (s.crcRestart).crcAcc = Config.crcInit := rfl
@[simp] theorem crcRestart_fault (s : State) : (s.crcRestart).fault = s.fault := rfl
@[simp] theorem crcRestart_fcause (s : State) : (s.crcRestart).fcause = s.fcause := rfl
@[simp] theorem crcRestart_fdir (s : State) : (s.crcRestart).fdir = s.fdir := rfl
@[simp] theorem crcRestart_faddr (s : State) : (s.crcRestart).faddr = s.faddr := rfl
@[simp] theorem crcRestart_pending (s : State) : (s.crcRestart).pending = s.pending := rfl
@[simp] theorem crcRestart_responses (s : State) : (s.crcRestart).responses = s.responses := rfl

/-! ### crcFeed -/

@[simp] theorem crcFeed_key (b : Byte) (s : State) : (s.crcFeed b).key = s.key := rfl
@[simp] theorem crcFeed_keymask (b : Byte) (s : State) : (s.crcFeed b).keymask = s.keymask := rfl
@[simp] theorem crcFeed_nonce (b : Byte) (s : State) : (s.crcFeed b).nonce = s.nonce := rfl
@[simp] theorem crcFeed_din (b : Byte) (s : State) : (s.crcFeed b).din = s.din := rfl
@[simp] theorem crcFeed_dout (b : Byte) (s : State) : (s.crcFeed b).dout = s.dout := rfl
@[simp] theorem crcFeed_dvalid (b : Byte) (s : State) : (s.crcFeed b).dvalid = s.dvalid := rfl
@[simp] theorem crcFeed_crcAcc (b : Byte) (s : State) :
    (s.crcFeed b).crcAcc = crcStep Config.crcTable s.crcAcc b := rfl
@[simp] theorem crcFeed_fault (b : Byte) (s : State) : (s.crcFeed b).fault = s.fault := rfl
@[simp] theorem crcFeed_fcause (b : Byte) (s : State) : (s.crcFeed b).fcause = s.fcause := rfl
@[simp] theorem crcFeed_fdir (b : Byte) (s : State) : (s.crcFeed b).fdir = s.fdir := rfl
@[simp] theorem crcFeed_faddr (b : Byte) (s : State) : (s.crcFeed b).faddr = s.faddr := rfl
@[simp] theorem crcFeed_pending (b : Byte) (s : State) : (s.crcFeed b).pending = s.pending := rfl
@[simp] theorem crcFeed_responses (b : Byte) (s : State) : (s.crcFeed b).responses = s.responses := rfl

/-! ### raiseFault -/

@[simp] theorem raiseFault_key (c : Cause) (d : Bool) (a : Widx) (s : State) : (s.raiseFault c d a).key = s.key := rfl
@[simp] theorem raiseFault_keymask (c : Cause) (d : Bool) (a : Widx) (s : State) :
    (s.raiseFault c d a).keymask = s.keymask := rfl
@[simp] theorem raiseFault_nonce (c : Cause) (d : Bool) (a : Widx) (s : State) :
    (s.raiseFault c d a).nonce = s.nonce := rfl
@[simp] theorem raiseFault_din (c : Cause) (d : Bool) (a : Widx) (s : State) : (s.raiseFault c d a).din = s.din := rfl
@[simp] theorem raiseFault_dout (c : Cause) (d : Bool) (a : Widx) (s : State) :
    (s.raiseFault c d a).dout = s.dout := rfl
@[simp] theorem raiseFault_dvalid (c : Cause) (d : Bool) (a : Widx) (s : State) :
    (s.raiseFault c d a).dvalid = s.dvalid := rfl
@[simp] theorem raiseFault_crcAcc (c : Cause) (d : Bool) (a : Widx) (s : State) :
    (s.raiseFault c d a).crcAcc = s.crcAcc := rfl
@[simp] theorem raiseFault_fault (c : Cause) (d : Bool) (a : Widx) (s : State) :
    (s.raiseFault c d a).fault = true := rfl
@[simp] theorem raiseFault_fcause (c : Cause) (d : Bool) (a : Widx) (s : State) :
    (s.raiseFault c d a).fcause = c.code := rfl
@[simp] theorem raiseFault_fdir (c : Cause) (d : Bool) (a : Widx) (s : State) : (s.raiseFault c d a).fdir = d := rfl
@[simp] theorem raiseFault_faddr (c : Cause) (d : Bool) (a : Widx) (s : State) : (s.raiseFault c d a).faddr = a := rfl
@[simp] theorem raiseFault_pending (c : Cause) (d : Bool) (a : Widx) (s : State) :
    (s.raiseFault c d a).pending = s.pending := rfl
@[simp] theorem raiseFault_responses (c : Cause) (d : Bool) (a : Widx) (s : State) :
    (s.raiseFault c d a).responses = s.responses := rfl

/-! ### respond -/

@[simp] theorem respond_key (v : Word) (s : State) : (s.respond v).key = s.key := rfl
@[simp] theorem respond_keymask (v : Word) (s : State) : (s.respond v).keymask = s.keymask := rfl
@[simp] theorem respond_nonce (v : Word) (s : State) : (s.respond v).nonce = s.nonce := rfl
@[simp] theorem respond_din (v : Word) (s : State) : (s.respond v).din = s.din := rfl
@[simp] theorem respond_dout (v : Word) (s : State) : (s.respond v).dout = s.dout := rfl
@[simp] theorem respond_dvalid (v : Word) (s : State) : (s.respond v).dvalid = s.dvalid := rfl
@[simp] theorem respond_crcAcc (v : Word) (s : State) : (s.respond v).crcAcc = s.crcAcc := rfl
@[simp] theorem respond_fault (v : Word) (s : State) : (s.respond v).fault = s.fault := rfl
@[simp] theorem respond_fcause (v : Word) (s : State) : (s.respond v).fcause = s.fcause := rfl
@[simp] theorem respond_fdir (v : Word) (s : State) : (s.respond v).fdir = s.fdir := rfl
@[simp] theorem respond_faddr (v : Word) (s : State) : (s.respond v).faddr = s.faddr := rfl
@[simp] theorem respond_pending (v : Word) (s : State) : (s.respond v).pending = s.pending := rfl
@[simp] theorem respond_responses (v : Word) (s : State) : (s.respond v).responses = s.responses ++ [v] := rfl

/-! ### resetBlock -/

@[simp] theorem resetBlock_key (s : State) : (s.resetBlock).key = ⟨0, 0, 0, 0⟩ := rfl
@[simp] theorem resetBlock_keymask (s : State) : (s.resetBlock).keymask = 0 := rfl
@[simp] theorem resetBlock_nonce (s : State) : (s.resetBlock).nonce = ⟨0, 0, 0, 0⟩ := rfl
@[simp] theorem resetBlock_din (s : State) : (s.resetBlock).din = ⟨0, 0, 0, 0⟩ := rfl
@[simp] theorem resetBlock_dout (s : State) : (s.resetBlock).dout = ⟨0, 0, 0, 0⟩ := rfl
@[simp] theorem resetBlock_dvalid (s : State) : (s.resetBlock).dvalid = false := rfl
@[simp] theorem resetBlock_crcAcc (s : State) : (s.resetBlock).crcAcc = 0xFFFFFFFF := rfl
@[simp] theorem resetBlock_fault (s : State) : (s.resetBlock).fault = false := rfl
@[simp] theorem resetBlock_fcause (s : State) : (s.resetBlock).fcause = 0 := rfl
@[simp] theorem resetBlock_fdir (s : State) : (s.resetBlock).fdir = false := rfl
@[simp] theorem resetBlock_faddr (s : State) : (s.resetBlock).faddr = 0 := rfl
@[simp] theorem resetBlock_pending (s : State) : (s.resetBlock).pending = s.pending := rfl
@[simp] theorem resetBlock_responses (s : State) : (s.resetBlock).responses = s.responses := rfl

/-! ### issue -/

@[simp] theorem issue_key (ts : List T43) (s : State) : (s.issue ts).key = s.key := rfl
@[simp] theorem issue_keymask (ts : List T43) (s : State) : (s.issue ts).keymask = s.keymask := rfl
@[simp] theorem issue_nonce (ts : List T43) (s : State) : (s.issue ts).nonce = s.nonce := rfl
@[simp] theorem issue_din (ts : List T43) (s : State) : (s.issue ts).din = s.din := rfl
@[simp] theorem issue_dout (ts : List T43) (s : State) : (s.issue ts).dout = s.dout := rfl
@[simp] theorem issue_dvalid (ts : List T43) (s : State) : (s.issue ts).dvalid = s.dvalid := rfl
@[simp] theorem issue_crcAcc (ts : List T43) (s : State) : (s.issue ts).crcAcc = s.crcAcc := rfl
@[simp] theorem issue_fault (ts : List T43) (s : State) : (s.issue ts).fault = s.fault := rfl
@[simp] theorem issue_fcause (ts : List T43) (s : State) : (s.issue ts).fcause = s.fcause := rfl
@[simp] theorem issue_fdir (ts : List T43) (s : State) : (s.issue ts).fdir = s.fdir := rfl
@[simp] theorem issue_faddr (ts : List T43) (s : State) : (s.issue ts).faddr = s.faddr := rfl
@[simp] theorem issue_pending (ts : List T43) (s : State) :
    (s.issue ts).pending = s.pending ++ ts.map PortEvent.txn := rfl
@[simp] theorem issue_responses (ts : List T43) (s : State) : (s.issue ts).responses = s.responses := rfl

end Sys2Proof.Machine
end

