-- ==== Sys2Proof/Laws/Ops.lean ====
section
/-! SUPPORT. What each shared operation can do, said once; and what one instruction can do, said once. -/

namespace Sys2Proof.Machine

variable {s t : State}

/-! ### The shared shapes -/

theorem writeTxn_running (f : State → State) (h : s.fault = false) : writeTxn f s = .next (f s) := by
  simp [writeTxn, h]

theorem writeTxn_halted (f : State → State) (h : s.fault = true) : writeTxn f s = .next s := by
  simp [writeTxn, h]

/-- A write answers: halted it leaves the state, running it has its effect (R175). -/
theorem writeTxn_next {f : State → State} (h : writeTxn f s = .next t) :
    (s.fault = true ∧ t = s) ∨ (s.fault = false ∧ t = f s) := by
  cases hf : s.fault with
  | true => exact .inl ⟨rfl, by simpa [writeTxn, hf] using h.symm⟩
  | false => exact .inr ⟨rfl, by simpa [writeTxn, hf] using h.symm⟩

/-- A legal read answers its value and changes nothing else (R47). -/
theorem readTxn_next {v : Word} (h : readTxn v s = .next t) : t = s.respond v := by
  simpa [readTxn] using h.symm

theorem badRead_running (a : Widx) (h : s.fault = false) :
    badRead a s = .next (State.respond 0 (s.raiseFault .badacc false a)) := by
  simp [badRead, h]

theorem badRead_halted (a : Widx) (h : s.fault = true) : badRead a s = .next (State.respond 0 s) := by
  simp [badRead, h]

theorem badRead_next {a : Widx} (h : badRead a s = .next t) :
    (s.fault = true ∧ t = State.respond 0 s) ∨
      (s.fault = false ∧ t = State.respond 0 (s.raiseFault .badacc false a)) := by
  cases hf : s.fault with
  | true => exact .inl ⟨rfl, by simpa [badRead, hf] using h.symm⟩
  | false => exact .inr ⟨rfl, by simpa [badRead, hf] using h.symm⟩

theorem badWrite_running (a : Widx) (h : s.fault = false) :
    badWrite a s = .next (s.raiseFault .badacc true a) := writeTxn_running _ h

theorem badWrite_halted (a : Widx) (h : s.fault = true) : badWrite a s = .next s := writeTxn_halted _ h

/-- A GO with FAULT = 0 ends in one of the three faults, tested in the order of R176, or in the block operation. -/
theorem go_cases (rsvd : BitVec 27) (len : BitVec 5) (s : State) :
    (rsvd ≠ 0 ∧ s.go rsvd len = s.raiseFault .badacc true 0x010) ∨
    (rsvd = 0 ∧ lenLegal len = false ∧ s.go rsvd len = s.raiseFault .badlen true 0x010) ∨
    (rsvd = 0 ∧ lenLegal len = true ∧ keyComplete s.keymask = false ∧
      s.go rsvd len = s.raiseFault .keylen true 0x010) ∨
    (rsvd = 0 ∧ lenLegal len = true ∧ keyComplete s.keymask = true ∧ s.go rsvd len = s.processBlock len) := by
  by_cases hr : rsvd = 0
  · cases hl : lenLegal len
    · exact .inr (.inl ⟨hr, rfl, by simp [State.go, hr, hl, Reg.widx]⟩)
    · cases hk : keyComplete s.keymask
      · exact .inr (.inr (.inl ⟨hr, rfl, rfl, by simp [State.go, hr, hl, hk, Reg.widx]⟩))
      · exact .inr (.inr (.inr ⟨hr, rfl, rfl, by simp [State.go, hr, hl, hk]⟩))
  · exact .inl ⟨hr, by rw [State.go, if_pos hr]; rfl⟩

/-! ### Flags and results -/

/-- KEYMASK after a key word is loaded: that word's bit is set, the others are as they were (R80). -/
theorem maskWith_bit : ∀ (m : BitVec 4) (i j : Fin 4),
    (maskWith m i).getLsbD j.val = (m.getLsbD j.val || j == i) := by decide +kernel

/-- The final XOR with all ones is the bitwise NOT (R143). -/
@[simp] theorem crcFinish_eq_not (acc : Word) : crcFinish acc = ~~~ acc := by
  exact BitVec.xor_allOnes

/-! ### What one instruction can do -/

/-- The ways an instruction can go from a state to the next. -/
inductive Effect (s : State) : Instr → State → Prop
  | ignored {i : Instr} : i.isWrite = true → s.fault = true → Effect s i s
  | keyLoaded (n : Fin 4) (v : Word) : s.fault = false → Effect s (.wrKey n v) (s.loadKey n v)
  | nonceLoaded (n : Fin 4) (v : Word) : s.fault = false → Effect s (.wrNonce n v) (s.loadNonce n v)
  | dinLoaded (n : Fin 4) (v : Word) : s.fault = false → Effect s (.wrDin n v) (s.loadDin n v)
  | blockDone (len : BitVec 5) : s.fault = false → lenLegal len = true → keyComplete s.keymask = true →
      Effect s (.wrGo 0 len) (s.processBlock len)
  | badLength (len : BitVec 5) : s.fault = false → lenLegal len = false →
      Effect s (.wrGo 0 len) (s.raiseFault .badlen true 0x010)
  | badKey (len : BitVec 5) : s.fault = false → lenLegal len = true → keyComplete s.keymask = false →
      Effect s (.wrGo 0 len) (s.raiseFault .keylen true 0x010)
  | cleared : s.fault = false → Effect s (.wrCtrl 0 true) s.clearCipher
  | notCleared : s.fault = false → Effect s (.wrCtrl 0 false) s
  | byteFed (b : Byte) : s.fault = false → Effect s (.wrCrcData 0 b) (s.crcFeed b)
  | crcRestarted : s.fault = false → Effect s (.wrCrcCtrl 0 true) s.crcRestart
  | crcNotRestarted : s.fault = false → Effect s (.wrCrcCtrl 0 false) s
  | answered {i : Instr} (v : Word) : i.isWrite = false → i.isIllegal = false → Effect s i (s.respond v)
  | badWritten {i : Instr} : i.isWrite = true → i.wellFormed = false → s.fault = false →
      Effect s i (s.raiseFault .badacc true i.widx)
  | badReadRunning {i : Instr} : i.isWrite = false → i.isIllegal = true → s.fault = false →
      Effect s i (State.respond 0 (s.raiseFault .badacc false i.widx))
  | badReadHalted {i : Instr} : i.isWrite = false → i.isIllegal = true → s.fault = true →
      Effect s i (State.respond 0 s)

theorem badRead_effect {i : Instr} (hw : i.isWrite = false) (hi : i.isIllegal = true)
    (h : badRead i.widx s = .next t) : Effect s i t := by
  obtain ⟨hf, rfl⟩ | ⟨hf, rfl⟩ := badRead_next h
  · exact .badReadHalted hw hi hf
  · exact .badReadRunning hw hi hf

theorem badWrite_effect {i : Instr} (hw : i.isWrite = true) (hi : i.wellFormed = false)
    (h : badWrite i.widx s = .next t) : Effect s i t := by
  obtain ⟨hf, rfl⟩ | ⟨hf, rfl⟩ := writeTxn_next h
  · exact .ignored hw hf
  · exact .badWritten hw hi hf

theorem readTxn_effect {i : Instr} {v : Word} (hw : i.isWrite = false) (hi : i.isIllegal = false)
    (h : readTxn v s = .next t) : Effect s i t := by
  rw [readTxn_next h]
  exact .answered v hw hi

/-- Every next state of an instruction is one of its effects. -/
theorem exec_effect {i : Instr} (h : exec i s = .next t) : Effect s i t := by
  cases i with
  | wrKey n v =>
    obtain ⟨hf, rfl⟩ | ⟨hf, rfl⟩ := writeTxn_next h
    · exact .ignored (T43.dir_pack ..) hf
    · exact .keyLoaded n v hf
  | wrNonce n v =>
    obtain ⟨hf, rfl⟩ | ⟨hf, rfl⟩ := writeTxn_next h
    · exact .ignored (T43.dir_pack ..) hf
    · exact .nonceLoaded n v hf
  | wrDin n v =>
    obtain ⟨hf, rfl⟩ | ⟨hf, rfl⟩ := writeTxn_next h
    · exact .ignored (T43.dir_pack ..) hf
    · exact .dinLoaded n v hf
  | wrGo rsvd len =>
    obtain ⟨hf, rfl⟩ | ⟨hf, rfl⟩ := writeTxn_next h
    · exact .ignored (T43.dir_pack ..) hf
    · obtain ⟨hr, e⟩ | ⟨rfl, hl, e⟩ | ⟨rfl, hl, hk, e⟩ | ⟨rfl, hl, hk, e⟩ := go_cases rsvd len s
      · have hw : (Instr.wrGo rsvd len).widx = 0x010 := T43.widx_pack ..
        rw [e, ← hw]
        exact .badWritten (T43.dir_pack ..) (by simpa [Instr.wellFormed] using fun h => absurd h hr) hf
      · rw [e]; exact .badLength len hf hl
      · rw [e]; exact .badKey len hf hl hk
      · rw [e]; exact .blockDone len hf hl hk
  | wrCtrl rsvd clr =>
    obtain ⟨hf, rfl⟩ | ⟨hf, rfl⟩ := writeTxn_next h
    · exact .ignored (T43.dir_pack ..) hf
    · by_cases hr : rsvd = 0
      · subst hr
        cases clr
        · exact .notCleared hf
        · exact .cleared hf
      · have hw : (Instr.wrCtrl rsvd clr).widx = Reg.ctrl.widx := T43.widx_pack ..
        rw [State.ctrl, if_pos hr, ← hw]
        exact .badWritten (T43.dir_pack ..) (by simpa [Instr.wellFormed] using hr) hf
  | wrCrcData rsvd b =>
    obtain ⟨hf, rfl⟩ | ⟨hf, rfl⟩ := writeTxn_next h
    · exact .ignored (T43.dir_pack ..) hf
    · by_cases hr : rsvd = 0
      · subst hr
        exact .byteFed b hf
      · have hw : (Instr.wrCrcData rsvd b).widx = Reg.crcData.widx := T43.widx_pack ..
        rw [State.crcData, if_pos hr, ← hw]
        exact .badWritten (T43.dir_pack ..) (by simpa [Instr.wellFormed] using hr) hf
  | wrCrcCtrl rsvd init =>
    obtain ⟨hf, rfl⟩ | ⟨hf, rfl⟩ := writeTxn_next h
    · exact .ignored (T43.dir_pack ..) hf
    · by_cases hr : rsvd = 0
      · subst hr
        cases init
        · exact .crcNotRestarted hf
        · exact .crcRestarted hf
      · have hw : (Instr.wrCrcCtrl rsvd init).widx = Reg.crcCtrl.widx := T43.widx_pack ..
        rw [State.crcCtrl, if_pos hr, ← hw]
        exact .badWritten (T43.dir_pack ..) (by simpa [Instr.wellFormed] using hr) hf
  | rdNonce n => exact readTxn_effect (T43.dir_pack ..) rfl h
  | rdDin n => exact readTxn_effect (T43.dir_pack ..) rfl h
  | rdDout n => exact readTxn_effect (T43.dir_pack ..) rfl h
  | rdCrcAcc => exact readTxn_effect (T43.dir_pack ..) rfl h
  | rdCrcResult => exact readTxn_effect (T43.dir_pack ..) rfl h
  | rdStatus => exact readTxn_effect (T43.dir_pack ..) rfl h
  | rdCrcTable idx => exact readTxn_effect (T43.dir_pack ..) rfl h
  | illegalRdKey n =>
    exact badRead_effect (T43.dir_pack ..) rfl (by rw [Instr.widx, encode, T43.widx_pack]; exact h)
  | illegalRdGo => exact badRead_effect (T43.dir_pack ..) rfl (by rw [Instr.widx, encode, T43.widx_pack]; exact h)
  | illegalRdCtrl => exact badRead_effect (T43.dir_pack ..) rfl (by rw [Instr.widx, encode, T43.widx_pack]; exact h)
  | illegalRdCrcData =>
    exact badRead_effect (T43.dir_pack ..) rfl (by rw [Instr.widx, encode, T43.widx_pack]; exact h)
  | illegalRdCrcCtrl =>
    exact badRead_effect (T43.dir_pack ..) rfl (by rw [Instr.widx, encode, T43.widx_pack]; exact h)
  | illegalWrDout n =>
    exact badWrite_effect (T43.dir_pack ..) rfl (by rw [Instr.widx, encode, T43.widx_pack]; exact h)
  | illegalWrCrcAcc =>
    exact badWrite_effect (T43.dir_pack ..) rfl (by rw [Instr.widx, encode, T43.widx_pack]; exact h)
  | illegalWrCrcResult =>
    exact badWrite_effect (T43.dir_pack ..) rfl (by rw [Instr.widx, encode, T43.widx_pack]; exact h)
  | illegalWrStatus =>
    exact badWrite_effect (T43.dir_pack ..) rfl (by rw [Instr.widx, encode, T43.widx_pack]; exact h)
  | illegalWrCrcTable idx =>
    exact badWrite_effect (T43.dir_pack ..) rfl (by rw [Instr.widx, encode, T43.widx_pack]; exact h)

end Sys2Proof.Machine
end

