-- ==== Sys2Proof/Laws/PerInstr.lean ====
section
/-! SUPPORT. Statements for all instructions, made per instruction. Family ReadsBack: the decoder reads an instruction
back from its own transaction word. -/

namespace Sys2Proof.Laws.ReadsBack

/-- The decoder reads i back from the word the encoder gives it, with every operand. -/
def Statement (i : Instr) : Prop := decode (encode i) = .ok i

/-- A word packed at a register's own index decodes to that register's row. -/
theorem at_register (dir : Bool) (r : Reg) (d : Word) :
    decode (T43.pack dir r.widx d) = .ok (if dir then decodeWrite d r else decodeRead r) :=
  decode_pack (regAt_widx r) dir d

theorem wrKey (i : Fin 4) (v : Word) : Statement (.wrKey i v) := by
  exact at_register true (.key i) v

theorem wrNonce (i : Fin 4) (v : Word) : Statement (.wrNonce i v) := by
  exact at_register true (.nonce i) v

theorem rdNonce (i : Fin 4) : Statement (.rdNonce i) := by
  exact at_register false (.nonce i) 0

theorem wrDin (i : Fin 4) (v : Word) : Statement (.wrDin i v) := by
  exact at_register true (.din i) v

theorem rdDin (i : Fin 4) : Statement (.rdDin i) := by
  exact at_register false (.din i) 0

theorem rdDout (i : Fin 4) : Statement (.rdDout i) := by
  exact at_register false (.dout i) 0

theorem wrGo (rsvd : BitVec 27) (len : BitVec 5) : Statement (.wrGo rsvd len) := by
  exact (at_register true .go _).trans
    (congrArg Except.ok (congrArg₂ Instr.wrGo (extract_high_append rsvd len) (extract_low_append rsvd len)))

theorem wrCtrl (rsvd : BitVec 31) (clr : Bool) : Statement (.wrCtrl rsvd clr) := by
  exact (at_register true .ctrl _).trans
    (congrArg Except.ok (congrArg₂ Instr.wrCtrl (extract_high_append rsvd (BitVec.ofBool clr)) (bit_zero_append rsvd clr)))

theorem wrCrcData (rsvd : BitVec 24) (byte : Byte) : Statement (.wrCrcData rsvd byte) := by
  exact (at_register true .crcData _).trans
    (congrArg Except.ok (congrArg₂ Instr.wrCrcData (extract_high_append rsvd byte) (extract_low_append rsvd byte)))

theorem rdCrcAcc : Statement .rdCrcAcc := by
  exact at_register false .crcAcc 0

theorem rdCrcResult : Statement .rdCrcResult := by
  exact at_register false .crcResult 0

theorem wrCrcCtrl (rsvd : BitVec 31) (init : Bool) : Statement (.wrCrcCtrl rsvd init) := by
  exact (at_register true .crcCtrl _).trans
    (congrArg Except.ok (congrArg₂ Instr.wrCrcCtrl (extract_high_append rsvd (BitVec.ofBool init)) (bit_zero_append rsvd init)))

theorem rdStatus : Statement .rdStatus := by
  exact at_register false .status 0

theorem rdCrcTable (idx : Byte) : Statement (.rdCrcTable idx) := by
  exact at_register false (.crcTable idx) 0

theorem illegalRdKey (i : Fin 4) : Statement (.illegalRdKey i) := by
  exact at_register false (.key i) 0

theorem illegalWrDout (i : Fin 4) : Statement (.illegalWrDout i) := by
  exact at_register true (.dout i) 0

theorem illegalRdGo : Statement .illegalRdGo := by
  exact at_register false .go 0

theorem illegalRdCtrl : Statement .illegalRdCtrl := by
  exact at_register false .ctrl 0

theorem illegalRdCrcData : Statement .illegalRdCrcData := by
  exact at_register false .crcData 0

theorem illegalWrCrcAcc : Statement .illegalWrCrcAcc := by
  exact at_register true .crcAcc 0

theorem illegalWrCrcResult : Statement .illegalWrCrcResult := by
  exact at_register true .crcResult 0

theorem illegalRdCrcCtrl : Statement .illegalRdCrcCtrl := by
  exact at_register false .crcCtrl 0

theorem illegalWrStatus : Statement .illegalWrStatus := by
  exact at_register true .status 0

theorem illegalWrCrcTable (idx : Byte) : Statement (.illegalWrCrcTable idx) := by
  exact at_register true (.crcTable idx) 0

end Sys2Proof.Laws.ReadsBack
end

