-- ==== Sys2Proof/Laws/Step.lean ====
section
/-! SUPPORT. What one step can do, said once, and how a run over a list of transactions unrolls. -/

namespace Sys2Proof.Machine

variable {s t : State}

/-- A step is idle, serves a reset, or runs the transaction at the head of the list. -/
theorem step_cases (h : step s = .next t) :
    (s.pending = [] ∧ t = s) ∨
    (∃ rest, s.pending = .reset :: rest ∧ t = State.resetBlock { s with pending := rest }) ∨
    (∃ x rest, s.pending = .txn x :: rest ∧ runTxn x { s with pending := rest } = .next t) := by
  unfold step State.nextEvent at h
  split at h
  · rename_i heq
    split at heq
    · exact .inl ⟨by assumption, by simpa [idle] using h.symm⟩
    · cases heq
  · rename_i s' heq
    split at heq
    · cases heq
    · rename_i e rest hp
      cases heq
      exact .inr (.inl ⟨rest, hp, by simpa [takeReset] using h.symm⟩)
  · rename_i x s' heq
    split at heq
    · cases heq
    · rename_i e rest hp
      cases heq
      exact .inr (.inr ⟨x, rest, hp, h⟩)

/-- A transaction runs as the instruction it decodes to, or as an access to a reserved index. -/
theorem runTxn_cases {x : T43} (h : runTxn x s = .next t) :
    (∃ i, decode x = .ok i ∧ exec i s = .next t) ∨
    (∃ d w, decode x = .error (.reserved d w) ∧ takeReserved (.reserved d w) s = .next t) := by
  unfold runTxn at h
  split at h
  · rename_i i hd
    exact .inl ⟨i, hd, h⟩
  · rename_i e hd
    obtain ⟨d, w⟩ := e
    exact .inr ⟨d, w, hd, h⟩

/-- An access to a reserved index is ignored or answered 0 when halted, and takes BADACC otherwise (R63, R66). -/
theorem takeReserved_cases {d : Bool} {w : Widx} (h : takeReserved (.reserved d w) s = .next t) :
    (d = true ∧ s.fault = true ∧ t = s) ∨
    (d = false ∧ s.fault = true ∧ t = State.respond 0 s) ∨
    (d = true ∧ s.fault = false ∧ t = s.raiseFault .badacc true w) ∨
    (d = false ∧ s.fault = false ∧ t = State.respond 0 (s.raiseFault .badacc false w)) := by
  cases d with
  | true =>
    obtain ⟨hf, rfl⟩ | ⟨hf, rfl⟩ := writeTxn_next (show badWrite w s = .next t from h)
    · exact .inl ⟨rfl, hf, rfl⟩
    · exact .inr (.inr (.inl ⟨rfl, hf, rfl⟩))
  | false =>
    obtain ⟨hf, rfl⟩ | ⟨hf, rfl⟩ := badRead_next (show badRead w s = .next t from h)
    · exact .inr (.inl ⟨rfl, hf, rfl⟩)
    · exact .inr (.inr (.inr ⟨rfl, hf, rfl⟩))

/-- A reserved index is one the register map has nothing at. -/
theorem decode_error {x : T43} {d : Bool} {w : Widx} (h : decode x = .error (.reserved d w)) :
    d = x.dir ∧ w = x.widx ∧ regAt x.widx = none := by
  unfold decode at h
  split at h
  · cases h
  · rename_i hr
    cases h
    exact ⟨rfl, rfl, hr⟩

/-- A step whose list begins with a transaction runs it. -/
theorem step_txn {x : T43} {rest : List PortEvent} (h : s.pending = .txn x :: rest) :
    step s = runTxn x { s with pending := rest } := by
  simp [step, State.nextEvent, h]

/-- A run of one more step: the step, then the rest. -/
theorem run_succ {u : State} (n : Nat) (h : step s = .next u) :
    Sys2Proof.core.run (n + 1) s = Sys2Proof.core.run n u := by
  have hc : Sys2Proof.core.step s = .next u := h
  refine (Host.Core.run.eq_2 Sys2Proof.core s n).trans ?_
  split <;> rename_i hs
  · rw [hc] at hs
    cases hs
    rfl
  · exact nomatch (hc.symm.trans hs)
  · exact nomatch (hc.symm.trans hs)

/-- Runs compose: the steps of a first part, then those of a second. -/
theorem run_add (m n : Nat) (h : Sys2Proof.core.run m s = .next t) :
    Sys2Proof.core.run (m + n) s = Sys2Proof.core.run n t := by
  induction m generalizing s with
  | zero =>
    cases h
    rw [Nat.zero_add]
  | succ m ih =>
    rw [Nat.add_right_comm]
    cases hu : step s with
    | next u =>
      rw [run_succ m hu] at h
      rw [run_succ (m + n) hu]
      exact ih h
    | fault r => exact nomatch r
    | refused r =>
      have hc : Sys2Proof.core.step s = .refused r := hu
      replace h := (Host.Core.run.eq_2 Sys2Proof.core s m).symm.trans h
      split at h <;> rename_i hs
      · exact nomatch (hc.symm.trans hs)
      · cases h
      · cases h

end Sys2Proof.Machine
end

