-- ==== Sys2Proof/Tests/Slice0.lean ====
section
/-! SUPPORT. The model's own tests: the checks of WellFormed, written-out words, the vectors of 95_test_vectors.md, and for
every statement with hypotheses a concrete state and operands that meet them. -/

namespace Sys2Proof.Tests

open Sys2Proof.Machine

/-! ### Helpers -/

/-- The next state of an outcome. -/
def after (o : Host.Outcome State Fault Refusal) : Option State :=
  match o with
  | .next s => some s
  | .fault _ => none
  | .refused _ => none

/-- The data the last read of an outcome returned. -/
def answer (o : Host.Outcome State Fault Refusal) : Option Word := (after o).bind fun s => s.responses.getLast?

/-- STATUS after an outcome (R27). -/
def statusAfter (o : Host.Outcome State Fault Refusal) : Option Word := (after o).map State.statusWord

/-- One field after an outcome. -/
def fieldAfter {α : Type} (f : State → α) (o : Host.Outcome State Fault Refusal) : Option α := (after o).map f

/-- From reset, `ldkey 0x00010203, 0x04050607, 0x08090A0B, 0x0C0D0E0F` and `ldblk 0xDEADBEEF, 0x11111111, 0x22222222,
0x33333333` (95_test_vectors.md section 3.1). -/
def loaded : State :=
  { State.reset with
    key := ⟨0x00010203, 0x04050607, 0x08090A0B, 0x0C0D0E0F⟩, keymask := 0b1111
    din := ⟨0xDEADBEEF, 0x11111111, 0x22222222, 0x33333333⟩ }

/-- The same after one GO of all 16 bytes. -/
def blockDone : State := loaded.processBlock 16

/-- The state `wr GO, 16` without a key leaves from reset (95_test_vectors.md section 5, first row). -/
def halted : State := { State.reset with fault := true, fcause := 1, fdir := true, faddr := 0x010 }

/-! ### WellFormed refuses an ill-formed term for each check -/

theorem test_wellFormed_accepts : (Instr.wrGo 0 16).wellFormed = true ∧ (Instr.wrGo 0 1).wellFormed = true ∧
    (Instr.wrCtrl 0 true).wellFormed = true ∧ (Instr.wrCrcData 0 0xFF).wellFormed = true := by decide

theorem test_wellFormed_refuses_go_reserved_bits : (Instr.wrGo 1 16).wellFormed = false := by decide

theorem test_wellFormed_refuses_go_len_zero : (Instr.wrGo 0 0).wellFormed = false := by decide

theorem test_wellFormed_refuses_go_len_seventeen : (Instr.wrGo 0 17).wellFormed = false := by decide

theorem test_wellFormed_refuses_ctrl_reserved_bits : (Instr.wrCtrl 1 true).wellFormed = false := by decide

theorem test_wellFormed_refuses_crcData_reserved_bits : (Instr.wrCrcData 1 0).wellFormed = false := by decide

theorem test_wellFormed_refuses_crcCtrl_reserved_bits : (Instr.wrCrcCtrl 1 true).wellFormed = false := by decide

theorem test_wellFormed_refuses_wrong_direction : (Instr.illegalRdKey 0).wellFormed = false ∧
    (Instr.illegalWrCrcTable 0).wellFormed = false := by decide

/-! ### Decoding: words written out from R61, R65 and the programs of 95_test_vectors.md section 6 -/

theorem test_decode_wrKey : decode 0x40309CF4F3C = .ok (.wrKey 3 0x09CF4F3C) := by rfl

theorem test_decode_wrNonce : decode 0x4068899AABB = .ok (.wrNonce 2 0x8899AABB) := by rfl

theorem test_decode_rdNonce : decode 0x00700000000 = .ok (.rdNonce 3) := by rfl

theorem test_decode_wrDin : decode 0x4094F205A49 = .ok (.wrDin 1 0x4F205A49) := by rfl

theorem test_decode_rdDin : decode 0x00800000000 = .ok (.rdDin 0) := by rfl

theorem test_decode_rdDout : decode 0x00E00000000 = .ok (.rdDout 2) := by rfl

theorem test_decode_wrGo : decode 0x4100000003F = .ok (.wrGo 1 31) := by rfl

theorem test_decode_wrCtrl : decode 0x41100000002 = .ok (.wrCtrl 1 false) := by rfl

theorem test_decode_wrCrcData : decode 0x42000000139 = .ok (.wrCrcData 1 0x39) := by rfl

theorem test_decode_rdCrcAcc : decode 0x02100000000 = .ok .rdCrcAcc := by rfl

theorem test_decode_rdCrcResult : decode 0x02200000000 = .ok .rdCrcResult := by rfl

theorem test_decode_wrCrcCtrl : decode 0x42300000003 = .ok (.wrCrcCtrl 1 true) := by rfl

theorem test_decode_rdStatus : decode 0x03000000000 = .ok .rdStatus := by rfl

theorem test_decode_rdCrcTable : decode 0x1FF00000000 = .ok (.rdCrcTable 0xFF) := by rfl

theorem test_decode_illegalRdKey : decode 0x00200000000 = .ok (.illegalRdKey 2) := by rfl

theorem test_decode_illegalWrDout : decode 0x40C00000001 = .ok (.illegalWrDout 0) := by rfl

theorem test_decode_illegalRdGo : decode 0x01000000000 = .ok .illegalRdGo := by rfl

theorem test_decode_illegalRdCtrl : decode 0x01100000000 = .ok .illegalRdCtrl := by rfl

theorem test_decode_illegalRdCrcData : decode 0x02000000000 = .ok .illegalRdCrcData := by rfl

theorem test_decode_illegalWrCrcAcc : decode 0x42100000000 = .ok .illegalWrCrcAcc := by rfl

theorem test_decode_illegalWrCrcResult : decode 0x42200000000 = .ok .illegalWrCrcResult := by rfl

theorem test_decode_illegalRdCrcCtrl : decode 0x02300000000 = .ok .illegalRdCrcCtrl := by rfl

theorem test_decode_illegalWrStatus : decode 0x43000000000 = .ok .illegalWrStatus := by rfl

theorem test_decode_illegalWrCrcTable : decode 0x50100000000 = .ok (.illegalWrCrcTable 1) := by rfl

theorem test_decode_reserved : decode 0x01200000000 = .error (.reserved false 0x012) ∧
    decode 0x7FF00000005 = .error (.reserved true 0x3FF) ∧
    decode 0x20000000000 = .error (.reserved false 0x200) := by exact ⟨rfl, rfl, rfl⟩

/-- No two rows of the operation maps R61 and R65 select one word. -/
theorem test_rows_do_not_overlap :
    (legalRows ++ wrongDirectionRows).Pairwise fun r q =>
      r.value &&& (r.mask &&& q.mask) ≠ q.value &&& (r.mask &&& q.mask) := by decide +kernel

theorem test_decodeTableWord : decodeTableWord 48 0x41000000005 = some (.wrGo 0 5) ∧
    decodeTableWord 48 0x01200000000 = none ∧ decodeTableWord 48 0x80000000000 = none := by decide +kernel

/-- The notation of R68: `wr KEY2, v` and an access to a literal index. -/
theorem test_assemble : AsmLine.assemble (.wr (.reg (.key 2)) 0x08090A0B) = 0x40208090A0B ∧
    AsmLine.assemble (.rd (.index 0x012)) = 0x01200000000 := by decide +kernel

/-! ### The cipher unit: 95_test_vectors.md sections 2, 3, 5 -/

/-- `wr KEY2, 5` from reset gives STATUS 0x00000400 (section 3.7). -/
theorem test_wrKey_sets_its_bit : statusAfter (exec (.wrKey 2 5) State.reset) = some 0x00000400 := by decide +kernel

/-- A write of the value 0 loads the word too (section 3.7). -/
theorem test_wrKey_zero_counts :
    statusAfter (exec (.wrKey 0 0) { State.reset with keymask := 0b0100 }) = some 0x00000500 := by decide +kernel

theorem test_wrNonce : fieldAfter State.nonce (exec (.wrNonce 3 9) State.reset) = some ⟨0, 0, 0, 9⟩ := by decide +kernel

theorem test_wrDin : fieldAfter State.dinBytes (exec (.wrDin 0 0xAABBCCDD) State.reset) =
    some ⟨⟨0xAA, 0xBB, 0xCC, 0xDD⟩, ⟨0, 0, 0, 0⟩, ⟨0, 0, 0, 0⟩, ⟨0, 0, 0, 0⟩⟩ := by decide +kernel

theorem test_rdDin : answer (exec (.rdDin 0) loaded) = some 0xDEADBEEF := by decide +kernel

theorem test_rdNonce : answer (exec (.rdNonce 3) { State.reset with nonce := ⟨0, 0, 0, 0xCCDDEF00⟩ }) = some 0xCCDDEF00 := by
  decide +kernel

theorem test_rdDout : answer (exec (.rdDout 3) { State.reset with dout := ⟨1, 2, 3, 0x70B4C55A⟩ }) = some 0x70B4C55A := by
  decide +kernel

/-- FIPS-197 C.1, the first row of section 2.1. -/
theorem test_aes_fips_c1 :
    aes128Enc (Quad.toBlk ⟨0x00010203, 0x04050607, 0x08090A0B, 0x0C0D0E0F⟩)
      (Quad.toBlk ⟨0x00112233, 0x44556677, 0x8899AABB, 0xCCDDEEFF⟩) =
    Quad.toBlk ⟨0x69C4E0D8, 0x6A7B0430, 0xD8CDB780, 0x70B4C55A⟩ := by decide +kernel

/-- Key expansion, the last words (section 2.2, first row). -/
theorem test_key_expansion :
    roundKey ⟨0x2B7E1516, 0x28AED2A6, 0xABF71588, 0x09CF4F3C⟩ 10 =
      ⟨0xD014F9A8, 0xC9EE2589, 0xE13F0CC8, 0xB6630CA6⟩ := by decide +kernel

/-- LEN = 5: real bytes, then filler, never the stale bytes of DIN (section 3.1, second row). -/
theorem test_wrGo_len_five : fieldAfter State.dout (exec (.wrGo 0 5) loaded) =
    some ⟨0x180C85D8, 0x9670A47D, 0x90B07E9D, 0x5E372786⟩ := by decide +kernel

/-- The block counter wraps without a carry and without a flag (section 3.3). -/
theorem test_wrGo_counter_wraps :
    fieldAfter State.nonce (exec (.wrGo 0 16) { loaded with nonce := ⟨0, 0, 0, 0xFFFFFFFF⟩ }) = some ⟨0, 0, 0, 0⟩ ∧
    statusAfter (exec (.wrGo 0 16) { loaded with nonce := ⟨0, 0, 0, 0xFFFFFFFF⟩ }) = some 0x00000F02 := by
  decide +kernel

/-- The order of the tests of GO (section 5): reserved bits, then length, then key. -/
theorem test_wrGo_order_of_tests :
    statusAfter (exec (.wrGo 1 0) State.reset) = some 0x10100031 ∧
    statusAfter (exec (.wrGo 0 0) State.reset) = some 0x10100021 ∧
    statusAfter (exec (.wrGo 0 0) { State.reset with keymask := 0b1111 }) = some 0x10100F21 ∧
    statusAfter (exec (.wrGo 0 16) { State.reset with keymask := 0b0111 }) = some 0x10100711 := by decide +kernel

/-- CLR erases the key, so that the next GO faults (section 3.6). -/
theorem test_wrCtrl_clears : fieldAfter (fun s => (s.statusWord, s.key, s.din)) (exec (.wrCtrl 0 true) loaded) =
    some (0, ⟨0, 0, 0, 0⟩, ⟨0, 0, 0, 0⟩) := by decide +kernel

/-- `wr CTRL, 3`: the clear is not performed (section 5). -/
theorem test_wrCtrl_three : fieldAfter (fun s => (s.statusWord, s.din.x0)) (exec (.wrCtrl 1 true) loaded) =
    some (0x10110F31, 0xDEADBEEF) := by decide +kernel

/-! ### The CRC unit: 95_test_vectors.md section 4 -/

/-- The one-byte law for every table (section 4.1). -/
theorem test_wrCrcData : fieldAfter State.crcAcc (exec (.wrCrcData 0 0x31) State.reset) =
    some (0xFFFFFF00 ^^^ Config.crcTable 0xCE) := by rfl

/-- `wr CRC_DATA, 0x100`: CRC_ACC stays (section 5). -/
theorem test_wrCrcData_reserved_bit :
    statusAfter (exec (.wrCrcData 1 0) State.reset) = some 0x10200031 ∧
    fieldAfter State.crcAcc (exec (.wrCrcData 1 0) State.reset) = some 0xFFFFFFFF := by decide +kernel

theorem test_rdCrcAcc : answer (exec .rdCrcAcc State.reset) = some 0xFFFFFFFF := by decide +kernel

theorem test_rdCrcResult : answer (exec .rdCrcResult { State.reset with crcAcc := 0x0376E6E7 }) = some 0xFC891918 := by
  decide +kernel

theorem test_wrCrcCtrl : fieldAfter State.crcAcc (exec (.wrCrcCtrl 0 true) { State.reset with crcAcc := 5 }) =
    some 0xFFFFFFFF := by decide +kernel

/-- `wr CRC_CTRL, 3`: the init is not performed (section 5). -/
theorem test_wrCrcCtrl_three :
    fieldAfter (fun s => (s.statusWord, s.crcAcc)) (exec (.wrCrcCtrl 1 true) { State.reset with crcAcc := 5 }) =
      some (0x10230031, 5) := by decide +kernel

/-- The table is readable while FAULT = 1 (section 4.1). -/
theorem test_rdCrcTable : answer (exec (.rdCrcTable 0xFF) halted) = some (Config.crcTable 0xFF) := by rfl

/-- The published check value with the test table, and the entries of section 4.2. -/
theorem test_crc32_check_value :
    crc32 testTable [0x31, 0x32, 0x33, 0x34, 0x35, 0x36, 0x37, 0x38, 0x39] = 0xFC891918 ∧
    testTable 0x80 = 0x690CE0EE ∧ testTable 0xFF = 0xB1F740B4 := by decide +kernel

/-! ### Status, wrong direction, reserved indices, halted block -/

theorem test_rdStatus : answer (exec .rdStatus { halted with dvalid := true, keymask := 0b0111, faddr := 0x3FF }) =
    some 0x13FF0713 := by decide +kernel

/-- The illegal accesses of section 5, STATUS after each, from reset. -/
theorem test_wrong_direction :
    statusAfter (exec (.illegalRdKey 0) State.reset) = some 0x00000031 ∧
    statusAfter (exec (.illegalWrDout 0) State.reset) = some 0x100C0031 ∧
    statusAfter (exec .illegalRdGo State.reset) = some 0x00100031 ∧
    statusAfter (exec .illegalRdCrcData State.reset) = some 0x00200031 ∧
    statusAfter (exec .illegalWrCrcAcc State.reset) = some 0x10210031 ∧
    statusAfter (exec .illegalWrStatus State.reset) = some 0x10300031 ∧
    statusAfter (exec (.illegalWrCrcTable 0) State.reset) = some 0x11000031 := by decide +kernel

/-- The three wrong-direction rows section 5 does not list, from R65 and R27. -/
theorem test_wrong_direction_others :
    statusAfter (exec .illegalRdCtrl State.reset) = some 0x00110031 ∧
    statusAfter (exec .illegalWrCrcResult State.reset) = some 0x10220031 ∧
    statusAfter (exec .illegalRdCrcCtrl State.reset) = some 0x00230031 := by decide +kernel

/-- The reserved indices of section 5. -/
theorem test_reserved_index :
    statusAfter (runTxn 0x01200000000 State.reset) = some 0x00120031 ∧
    statusAfter (runTxn 0x7FF00000005 State.reset) = some 0x13FF0031 ∧
    statusAfter (runTxn 0x20000000000 State.reset) = some 0x02000031 ∧
    answer (runTxn 0x20000000000 State.reset) = some 0 := by decide +kernel

/-- Program P4, steps 7, 8 and 14: ignored, and an illegal read answers 0 and records nothing. -/
theorem test_halted : after (exec (.wrKey 3 0x44444444) halted) = some halted ∧
    after (exec (.wrGo 0 16) halted) = some halted ∧
    after (exec (.illegalRdKey 0) halted) = some { halted with responses := [0] } := by decide +kernel

/-- A reset served in a halted block. -/
theorem test_reset : after (step { halted with crcAcc := 5, pending := [.reset] }) = some State.reset := by decide +kernel

theorem test_withFetchWord : fieldAfter State.keymask (step (State.reset.withFetchWord 48 0x40309CF4F3C)) = some 0b1000 := by
  decide +kernel


/-! ### Witnesses: for each statement with hypotheses, a concrete state and operands that meet them all -/

theorem loaded_inv : loaded.Inv :=
  ⟨by unfold State.RecordCoherent; decide, by unfold State.FlagsCoherent; decide⟩

theorem blockDone_inv : blockDone.Inv :=
  ⟨by unfold State.RecordCoherent; decide, by unfold State.FlagsCoherent; decide +kernel⟩

theorem halted_inv : halted.Inv :=
  ⟨by unfold State.RecordCoherent; decide, by unfold State.FlagsCoherent; decide⟩

/-- WrKeyLoadsItsWordAndMaskBit, WrNonceLoadsItsWord, WrDinLoadsItsWord, WrongDirectionRaisesBadacc: FAULT = 0. -/
theorem witness_running : loaded.fault = false := by decide

/-- CipherReadsAnswerTheirRegister, its last clause. -/
theorem witness_CipherReadsAnswerTheirRegister : loaded.Inv ∧ loaded.dvalid = false := ⟨loaded_inv, rfl⟩

/-- GoTestsThenProcessesOneBlock, its four clauses at the ends of their ranges: reserved bits at the lowest and the highest;
LEN 0, 17, 31; LEN 1 and 16 with a key one word short; LEN 1 and 16 with the key complete. -/
theorem witness_GoTestsThenProcessesOneBlock : loaded.fault = false ∧ State.reset.fault = false ∧
    ((1#27) ≠ 0 ∧ (0x4000000#27) ≠ 0) ∧
    (((0#5).toNat = 0 ∨ 16 < (0#5).toNat) ∧ ((17#5).toNat = 0 ∨ 16 < (17#5).toNat) ∧
      ((31#5).toNat = 0 ∨ 16 < (31#5).toNat)) ∧
    ((1 ≤ (1#5).toNat ∧ (1#5).toNat ≤ 16) ∧ (1 ≤ (16#5).toNat ∧ (16#5).toNat ≤ 16) ∧
      (State.loadKey 2 0 (State.loadKey 1 0 (State.loadKey 0 0 State.reset))).keymask ≠ 0b1111) ∧
    loaded.keymask = 0b1111 := by decide

/-- CtrlClearsTheCipherUnit, CrcCtrlInitialisesTheAccumulator, CrcDataFeedsOneByte: halted, running, and reserved bits not
0. -/
theorem witness_reserved_data_bits : halted.fault = true ∧ loaded.fault = false ∧ (1#31) ≠ 0 ∧ (0x40000000#31) ≠ 0 ∧ (1#24) ≠ 0 ∧
    (0x800000#24) ≠ 0 := by decide

/-- A word whose index is in one of the four ranges of R63. -/
def atReserved (x : T43) : Prop :=
  (0x012 ≤ x.widx.toNat ∧ x.widx.toNat ≤ 0x01F) ∨ (0x024 ≤ x.widx.toNat ∧ x.widx.toNat ≤ 0x02F) ∨
    (0x031 ≤ x.widx.toNat ∧ x.widx.toNat ≤ 0x0FF) ∨ (0x200 ≤ x.widx.toNat ∧ x.widx.toNat ≤ 0x3FF)

/-- ReservedIndexRaisesBadacc: the ends of the four ranges, as reads and writes. -/
theorem witness_ReservedIndexRaisesBadacc : State.reset.fault = false ∧
    ({ State.reset with pending := [.txn 0x01200000000] } : State).pending = .txn 0x01200000000 :: [] ∧
    atReserved 0x01200000000 ∧ atReserved 0x41F00000000 ∧ atReserved 0x02400000000 ∧ atReserved 0x42F00000000 ∧
    atReserved 0x03100000000 ∧ atReserved 0x4FF00000000 ∧ atReserved 0x20000000000 ∧ atReserved 0x7FF00000005 := by
  refine ⟨rfl, rfl, ?_⟩
  unfold atReserved
  decide +kernel

/-- HaltedBlockIgnoresWritesAndAnswersReads, its first clause: a legal write; its second: a wrong-direction read and a read
of a reserved index. -/
theorem witness_HaltedBlockIgnoresWritesAndAnswersReads : halted.fault = true ∧ T43.dir 0x41000000010 = true ∧
    (T43.dir 0x01000000000 = false ∧ ∀ j, decode 0x01000000000 = .ok j → j.isIllegal = true) ∧
    (T43.dir 0x20000000000 = false ∧ ∀ j, decode 0x20000000000 = .ok j → j.isIllegal = true) := by
  refine ⟨rfl, rfl, ⟨rfl, fun j h => ?_⟩, rfl, fun j h => ?_⟩
  · rw [test_decode_illegalRdGo] at h
    cases h
    rfl
  · rw [test_decode_reserved.2.2] at h
    cases h

/-- FaultsArePrecise: a write that faults, and a read that does. -/
theorem witness_FaultsArePrecise :
    (∃ t, State.reset.fault = false ∧ runTxn 0x41000000010 State.reset = .next t ∧ t.fault = true) ∧
    (∃ t, State.reset.fault = false ∧ runTxn 0x20000000000 State.reset = .next t ∧ t.fault = true) :=
  ⟨⟨_, rfl, rfl, rfl⟩, ⟨_, rfl, rfl, rfl⟩⟩

/-- EveryTransactionRaisesItsCause: no cause, and each of the three. -/
theorem witness_EveryTransactionRaisesItsCause : State.reset.fault = false ∧
    causeOf (decode 0x00C00000000) 0 = 0 ∧ causeOf (decode 0x41000000010) 0b1111 = 0 ∧
    causeOf (decode 0x41000000010) 0b0111 = 1 ∧ causeOf (decode 0x41000000011) 0b1111 = 2 ∧
    causeOf (decode 0x41000000020) 0b1111 = 3 ∧ causeOf (decode 0x7FF00000005) 0b1111 = 3 := by decide +kernel

/-- WellFormedRaisesOnlyKeylen: a GO without a key. -/
theorem witness_WellFormedRaisesOnlyKeylen : ∃ t, (Instr.wrGo 0 16).WellFormed ∧ State.reset.fault = false ∧
    exec (.wrGo 0 16) State.reset = .next t ∧ t.fault = true := ⟨_, rfl, rfl, rfl, rfl⟩

/-- OnlyResetEndsAFault: a step that keeps the fault and one that ends it. -/
theorem witness_OnlyResetEndsAFault :
    (∃ t, halted.fault = true ∧ step { halted with pending := [.txn 0x41100000001] } = .next t ∧ t.fault = true) ∧
    (∃ t, halted.fault = true ∧ step { halted with pending := [.reset] } = .next t ∧ t.fault = false) :=
  ⟨⟨_, rfl, rfl, rfl⟩, ⟨_, rfl, rfl, rfl⟩⟩

/-- ResetSetsEveryElement: a halted block with more to come, and a write to a halted block. -/
theorem witness_ResetSetsEveryElement :
    ({ halted with pending := [.reset, .txn 0] } : State).pending = .reset :: [.txn 0] ∧
    ∃ t, halted.fault = true ∧ runTxn 0x41100000001 halted = .next t := ⟨rfl, _, rfl, rfl⟩

/-- WrNonceLoadsItsWord, WrDinLoadsItsWord, their clauses about the next GO: it runs on the state the write leaves. -/
theorem witness_WrNonceLoadsItsWord : loaded.fault = false ∧
    (∃ u, exec (.wrGo 0 16) (loaded.loadNonce 3 0xFFFFFFFF) = .next u ∧ u.fault = false) ∧
    ∃ u, exec (.wrGo 0 16) (loaded.loadDin 3 5) = .next u := ⟨rfl, ⟨_, rfl, rfl⟩, _, rfl⟩

/-- StepRunsTheDecodedTransaction. -/
theorem witness_StepRunsTheDecodedTransaction :
    ({ loaded with pending := [.txn 0x41000000005, .reset] } : State).pending = .txn 0x41000000005 :: [.reset] ∧
    decode 0x41000000005 = .ok (.wrGo 0 5) := ⟨rfl, rfl⟩

/-- EveryStepAnswers, its idle clause. -/
theorem witness_EveryStepAnswers : State.reset.pending = [] := rfl

/-- DecodingKeepsEveryBitItsRowReads: a row with data and a row that ignores it. -/
theorem witness_DecodingKeepsEveryBitItsRowReads : decode 0x4100000003F = .ok (.wrGo 1 31) ∧
    (Instr.wrGo 1 31).ignoresData = false ∧ decode 0x40C00000001 = .ok (.illegalWrDout 0) ∧
    (Instr.illegalWrDout 0).ignoresData = true := ⟨rfl, rfl, rfl, rfl⟩

/-- DecodeFollowsTheOperationMap: a row of each map, with a word that meets it and one that does not. -/
theorem witness_DecodeFollowsTheOperationMap :
    OpRow.mk "WR.GO" 0x41000000000 0x7FF00000000 ∈ legalRows ++ wrongDirectionRows ∧
    OpRow.mk "ILLEGAL.WR.CRC_TABLE" 0x50000000000 0x70000000000 ∈ legalRows ++ wrongDirectionRows ∧
    (0x41000000005#43) &&& 0x7FF00000000 = 0x41000000000 ∧ (0x5FF00000005#43) &&& 0x70000000000 = 0x50000000000 ∧
    (0x01000000005#43) &&& 0x7FF00000000 ≠ 0x41000000000 := by decide +kernel

/-- RegisterMapGivesIndexAndAccess: an access the column allows and one it forbids. -/
theorem witness_RegisterMapGivesIndexAndAccess : regAt (T43.widx 0x41000000005) = some .go ∧
    decode 0x41000000005 = .ok (.wrGo 0 5) ∧ regAt (T43.widx 0x01000000000) = some .go ∧
    decode 0x01000000000 = .ok .illegalRdGo := ⟨rfl, rfl, rfl, rfl⟩

/-- OnlyWholeWordsAreTransactions, its last clause with a window at 0x1000: a narrow access, the last address below the
window, the first above it, and an address one byte off. -/
theorem witness_OnlyWholeWordsAreTransactions : 2 ≠ 4 ∧ 0x0FFF < 0x1000 ∧ 0x1000 + 4096 ≤ 0x2000 ∧
    (0x1001 - 0x1000) % 4 ≠ 0 := by decide

/-- The ends of the window at 0x1000: its last word, and the accesses just outside (R26). -/
theorem test_hostAccessAt : hostAccessAt 0x1000 true 0x1FFC 4 5 = some 0x7FF00000005 ∧
    hostAccessAt 0x1000 true 0x2000 4 5 = none ∧ hostAccessAt 0x1000 true 0x0FFC 4 5 = none := by decide +kernel

/-- EveryStepKeepsTheInvariant: a step that runs a GO and one that faults. -/
theorem witness_EveryStepKeepsTheInvariant :
    (∃ t, ({ loaded with pending := [.txn 0x41000000005] } : State).Inv ∧
      step { loaded with pending := [.txn 0x41000000005] } = .next t) ∧
    (∃ t, ({ loaded with pending := [.txn 0x41000000000] } : State).Inv ∧
      step { loaded with pending := [.txn 0x41000000000] } = .next t) :=
  ⟨⟨_, ⟨loaded_inv.record, loaded_inv.flags⟩, rfl⟩, ⟨_, ⟨loaded_inv.record, loaded_inv.flags⟩, rfl⟩⟩

/-- EachElementHasOnlyItsWriters: for each clause a transaction that changes the element. -/
theorem witness_EachElementHasOnlyItsWriters :
    (∃ t, runTxn 0x40309CF4F3C State.reset = .next t ∧ t.key.get 3 ≠ State.reset.key.get 3 ∧
      t.keymask.getLsbD 3 ≠ State.reset.keymask.getLsbD 3) ∧
    (∃ t, runTxn 0x4068899AABB State.reset = .next t ∧ t.nonce.get 2 ≠ State.reset.nonce.get 2) ∧
    (∃ t, runTxn 0x4094F205A49 State.reset = .next t ∧ t.din.get 1 ≠ State.reset.din.get 1) ∧
    (∃ t, runTxn 0x41000000005 loaded = .next t ∧ t.nonce.get 3 ≠ loaded.nonce.get 3 ∧ t.dvalid ≠ loaded.dvalid) ∧
    (∃ t, runTxn 0x41100000001 blockDone = .next t ∧ t.dvalid ≠ blockDone.dvalid ∧ t.dout ≠ blockDone.dout) ∧
    (∃ t, runTxn 0x42300000001 { State.reset with crcAcc := 5 } = .next t ∧ t.crcAcc ≠ 5) ∧
    (∃ t, runTxn 0x7FF00000005 State.reset = .next t ∧ t.fault ≠ State.reset.fault ∧ t.fcause ≠ State.reset.fcause ∧
      t.fdir ≠ State.reset.fdir ∧ t.faddr ≠ State.reset.faddr) := by
  refine ⟨⟨_, rfl, ?_⟩, ⟨_, rfl, ?_⟩, ⟨_, rfl, ?_⟩, ⟨_, rfl, ?_⟩, ⟨_, rfl, ?_⟩, ⟨_, rfl, ?_⟩, ⟨_, rfl, ?_⟩⟩ <;> decide +kernel

/-- ReadsHaveNoEffectAndTheseWritesRepeat, its first clause. -/
theorem witness_ReadsHaveNoEffectAndTheseWritesRepeat : Instr.rdStatus.isWrite = false ∧
    Instr.rdStatus.isIllegal = false := by decide

/-- TheUnitsDoNotDisturbEachOther: a GO and a CRC restart, in a running block that stays so; and two reads are left out. -/
theorem witness_TheUnitsDoNotDisturbEachOther :
    ∃ a b, isCipherUnit (.wrGo 0 5) = true ∧ isCrcUnit (.wrCrcCtrl 0 true) = true ∧
      ((Instr.wrGo 0 5).isWrite = true ∨ (Instr.wrCrcCtrl 0 true).isWrite = true) ∧ loaded.fault = false ∧
      exec (.wrGo 0 5) loaded = .next a ∧ exec (.wrCrcCtrl 0 true) a = .next b ∧ b.fault = false :=
  ⟨_, _, rfl, rfl, .inl (by decide), rfl, rfl, rfl, rfl⟩

/-- DvalidDecidesNothing. -/
theorem witness_DvalidDecidesNothing : ∃ t, decode 0x00E00000000 ≠ .ok .rdStatus ∧
    runTxn 0x00E00000000 blockDone = .next t :=
  ⟨_, by rw [test_decode_rdDout]; exact nofun, rfl⟩

/-- KeyIsReadOnlyByGo: a transaction that is no GO, and a GO. -/
theorem witness_KeyIsReadOnlyByGo :
    (∃ t, runTxn 0x00E00000000 loaded = .next t ∧ ∀ rsvd len, decode 0x00E00000000 ≠ .ok (.wrGo rsvd len)) ∧
    (∃ t, runTxn 0x41000000005 loaded = .next t ∧ decode 0x41000000005 = .ok (.wrGo 0 5)) :=
  ⟨⟨_, rfl, fun _ _ => by rw [test_decode_rdDout]; exact nofun⟩, ⟨_, rfl, rfl⟩⟩

/-- MaskAndValidTellWhatHappenedSinceClear: a key word, a clear, another key word. -/
theorem witness_MaskAndValidTellWhatHappenedSinceClear :
    ∃ t, Sys2Proof.core.run 3
        { State.reset with pending := [.txn 0x40000000001, .txn 0x41100000001, .txn 0x40200000005] } = .next t ∧
      t.fault = false ∧ t.keymask = 0b0100 := ⟨_, rfl, rfl, rfl⟩

/-- MaskAndValidTellWhatHadHappenedBeforeTheFault: a key word, a GO that faults, another key word. -/
theorem witness_MaskAndValidTellWhatHadHappenedBeforeTheFault :
    ∃ t, Sys2Proof.core.run 3
        { State.reset with pending := [.txn 0x40000000001, .txn 0x41000000010, .txn 0x40200000005] } = .next t ∧
      t.fault = true ∧ t.keymask = 0b0001 := ⟨_, rfl, rfl, rfl⟩

/-- ClearAndInitGiveTheResetState. -/
theorem witness_ClearAndInitGiveTheResetState : blockDone.fault = false ∧ blockDone.RecordCoherent :=
  ⟨rfl, blockDone_inv.record⟩

/-- NonceThreeCountsTheBlocks: two GOs, LEN 1 and 16. -/
theorem witness_NonceThreeCountsTheBlocks : loaded.fault = false ∧ loaded.keymask = 0b1111 ∧ loaded.pending = [] ∧
    ∀ l ∈ ([1, 16] : List (BitVec 5)), 1 ≤ l.toNat ∧ l.toNat ≤ 16 := by decide

/-- LdkeybLoadsTheSixteenKeyBytes, DriverSequenceComputesEncBlocks, BytesBeyondTheMessageMayBeAnything,
CrcDriverSequenceComputesCrc: running, nothing waiting. -/
theorem witness_driver : State.reset.fault = false ∧ State.reset.pending = [] ∧ State.reset.crcAcc = 0xFFFFFFFF := by decide

/-- DriverSequenceComputesEncBlocks, its second clause: the key is loaded. -/
theorem witness_DriverSequenceComputesEncBlocks : loaded.fault = false ∧ loaded.pending = [] ∧ loaded.keymask = 0b1111 ∧
    loaded.keyBytes = Quad.toBlk ⟨0x00010203, 0x04050607, 0x08090A0B, 0x0C0D0E0F⟩ := by decide

/-- CipherMessageMayBeInterleaved: a message of one byte with another behind it, a CRC byte and a status read among its
transactions. -/
theorem witness_CipherMessageMayBeInterleaved :
    taggedWords (((Asm.words (Asm.encmsgTail ⟨0, 0, 0, 1⟩ (Quad.toBlk ⟨0, 0, 0, 5⟩) [0x41] [0x42])).take 9).map (true, ·)
        ++ [(false, 0x42000000031), (false, 0x03000000000)] ++
        [(true, 0x41000000001), (true, 0x00C00000000), (true, 0x00D00000000), (true, 0x00E00000000),
          (true, 0x00F00000000)]) =
      Asm.words (Asm.encmsgTail ⟨0, 0, 0, 1⟩ (Quad.toBlk ⟨0, 0, 0, 5⟩) [0x41] [0x42]) ∧
    isCipherBystander 0x42000000031 = true ∧ isCipherBystander 0x03000000000 = true ∧
    isCipherBystander 0x41000000001 = false := by decide +kernel

/-- CrcMessageMayBeInterleaved: one byte, with a key write and a status read among its transactions. -/
theorem witness_CrcMessageMayBeInterleaved :
    taggedWords [(true, 0x42300000001), (false, 0x40000000001), (true, 0x42000000031), (false, 0x03000000000),
      (true, 0x02200000000)] = Asm.words (Asm.crcmsg [0x31]) ∧
    isCrcBystander 0x40000000001 = true ∧ isCrcBystander 0x03000000000 = true ∧
    isCrcBystander 0x42000000031 = false := by decide +kernel

/-- The word that straddles the end of a message takes its other bytes from the tail (R98). -/
theorem test_encmsgTail : (Asm.words (Asm.encmsgTail ⟨0, 0, 0, 1⟩ (Quad.toBlk ⟨0, 0, 0, 5⟩) [0x41] [0x42])).drop 8 =
    [0x40841420000, 0x41000000001, 0x00C00000000, 0x00D00000000, 0x00E00000000, 0x00F00000000] := by decide +kernel

/-- PackingIsBigEndian: the first and the last byte. -/
theorem witness_PackingIsBigEndian : (0 : Fin 16).val = 4 * (0 : Fin 4).val + (0 : Fin 4).val ∧
    (15 : Fin 16).val = 4 * (3 : Fin 4).val + (3 : Fin 4).val := by decide

/-- PaddingAndLengths: 0 and 16 bytes; 1 and 15 bytes. -/
theorem witness_PaddingAndLengths : ([] : List Byte).length % 16 = 0 ∧ (List.replicate 16 (0 : Byte)).length % 16 = 0 ∧
    ([1] : List Byte).length % 16 ≠ 0 ∧ (List.replicate 15 (0 : Byte)).length % 16 ≠ 0 := by decide

/-- EncBlocksIsByteByByteXor: the last byte of the second block of a message of 17 bytes. -/
theorem witness_EncBlocksIsByteByByteXor : 16 * 1 + (15 : Fin 16).val < (pad (List.replicate 17 0)).length := by decide

/-- KeystreamBlocksAreDistinct: the two ends of the range. -/
theorem witness_KeystreamBlocksAreDistinct : 0 < 2 ^ 32 ∧ 2 ^ 32 - 1 < 2 ^ 32 ∧ 0 ≠ 2 ^ 32 - 1 := by decide

/-- KeyScheduleObeysTheRecurrence: the ends of its range, on both sides of the case split. -/
theorem witness_KeyScheduleObeysTheRecurrence : (4 ≤ 4 ∧ 4 ≤ 43 ∧ 4 % 4 = 0) ∧ (4 ≤ 43 ∧ 43 ≤ 43 ∧ 43 % 4 ≠ 0) := by decide

/-- CrcLawsForEveryTable, its last clause: a table that agrees at the one entry a byte uses. -/
theorem witness_CrcLawsForEveryTable :
    ∀ i ∈ ([0xFF] : List Byte), (fun x : Byte => if x = 0xFF then testTable 0xFF else 0) i = testTable i := by decide +kernel

end Sys2Proof.Tests
end

section
/-! PROOFS. Every step answers and takes exactly one event off the port's list (R5, R6, R46). -/

namespace Sys2Proof.Machine

variable {s t : State}

/-- No instruction stops the block: each answers a next state (R6). -/
theorem exec_answers (i : Instr) (s : State) : ∃ t, exec i s = .next t := by
  cases i <;> exact ⟨_, rfl⟩

/-- An access to a reserved index answers too, in either direction (R63). -/
theorem takeReserved_answers (d : Bool) (w : Widx) (s : State) :
    ∃ t, takeReserved (.reserved d w) s = .next t := by
  cases d <;> exact ⟨_, rfl⟩

/-- Every transaction word is answered, mapped or reserved. -/
theorem runTxn_answers (x : T43) (s : State) : ∃ t, runTxn x s = .next t := by
  unfold runTxn
  cases decode x with
  | ok i => exact exec_answers i s
  | error e => exact takeReserved_answers e.1 e.2 s

/-- No effect of an instruction reaches the events still to come. -/
theorem Effect.pending_eq {i : Instr} (h : Effect s i t) : t.pending = s.pending := by
  cases h <;> rfl

/-- A transaction leaves the events still to come as they are. -/
theorem runTxn_pending {x : T43} (h : runTxn x s = .next t) : t.pending = s.pending := by
  obtain ⟨i, -, hi⟩ | ⟨d, w, -, hr⟩ := runTxn_cases h
  · exact (exec_effect hi).pending_eq
  · obtain ⟨-, -, rfl⟩ | ⟨-, -, rfl⟩ | ⟨-, -, rfl⟩ | ⟨-, -, rfl⟩ := takeReserved_cases hr <;> rfl

/-- A step with nothing presented changes nothing (R5, log entry 3). -/
theorem step_idle (h : s.pending = []) : step s = .next s := by
  simp [step, State.nextEvent, h, idle]

/-- A step whose list begins with the reset event serves it (R190). -/
theorem step_reset {rest : List PortEvent} (h : s.pending = .reset :: rest) :
    step s = .next (State.resetBlock { s with pending := rest }) := by
  simp [step, State.nextEvent, h, takeReset]

/-- The block never stops: every step answers (R6). -/
theorem step_answers (s : State) : ∃ t, step s = .next t := by
  cases hp : s.pending with
  | nil => exact ⟨s, step_idle hp⟩
  | cons e rest =>
    cases e with
    | reset => exact ⟨_, step_reset hp⟩
    | txn x => rw [step_txn hp]; exact runTxn_answers x _

/-- A step takes exactly the first event off the list (R46). -/
theorem step_pending (h : step s = .next t) : t.pending = s.pending.tail := by
  obtain ⟨hp, rfl⟩ | ⟨rest, hp, rfl⟩ | ⟨x, rest, hp, hx⟩ := step_cases h
  · simp [hp]
  · simp [hp]
  · simp [hp, runTxn_pending hx]

/-- With nothing presented, the state a step answers is the one it began in. -/
theorem step_eq_of_pending_nil (h : step s = .next t) (hp : s.pending = []) : t = s := by
  simpa [step_idle hp] using h.symm

end Sys2Proof.Machine

namespace Sys2Proof

/-- Settles O21: a step answers whatever event comes first, and no answer reaches the events behind it. -/
theorem everyStepAnswers : Obligations.EveryStepAnswers := by
  unfold Obligations.EveryStepAnswers
  intro s
  obtain ⟨t, ht⟩ := Machine.step_answers s
  exact ⟨t, ht, Machine.step_pending ht, Machine.step_eq_of_pending_nil ht⟩

end Sys2Proof
end

section
/-! PROOFS. What KEYMASK and DVALID tell of a list of events, told event by event (R12, R17). -/

namespace Sys2Proof.Machine

variable {s t : State}

-- The structure stands first on purpose: for it Lean waits until the kernel has checked what is queued behind the tests
-- above, so the proofs below do not add to the threads that wait there.
/-- KEYMASK and DVALID say of es what keyWritten and goPerformed say of it. -/
structure State.FlagsTell (s : State) (es : List PortEvent) : Prop where
  keymask : ∀ i : Fin 4, s.keymask.getLsbD i.val = keyWritten i es
  dvalid : s.dvalid = goPerformed es

/-! ### What one more event makes of what the list tells -/

section
variable {es : List PortEvent} {x : T43} {i : Fin 4}

@[simp] theorem keyWritten_reset : keyWritten i (es ++ [PortEvent.reset]) = false := by
  simp [keyWritten]

@[simp] theorem goPerformed_reset : goPerformed (es ++ [PortEvent.reset]) = false := by
  simp [goPerformed]

theorem keyWritten_clear {rsvd : BitVec 31} (hd : decode x = .ok (.wrCtrl rsvd true)) :
    keyWritten i (es ++ [PortEvent.txn x]) = false := by
  simp [keyWritten, hd]

theorem goPerformed_clear {rsvd : BitVec 31} (hd : decode x = .ok (.wrCtrl rsvd true)) :
    goPerformed (es ++ [PortEvent.txn x]) = false := by
  simp [goPerformed, hd]

theorem keyWritten_wrKey {n : Fin 4} {v : Word} (hd : decode x = .ok (.wrKey n v)) :
    keyWritten i (es ++ [PortEvent.txn x]) = (keyWritten i es || n == i) := by
  simp [keyWritten, hd]

theorem goPerformed_go {rsvd : BitVec 27} {len : BitVec 5} (hd : decode x = .ok (.wrGo rsvd len)) :
    goPerformed (es ++ [PortEvent.txn x]) = true := by
  simp [goPerformed, hd]

theorem keyWritten_other (hkey : ∀ n v, decode x ≠ .ok (.wrKey n v))
    (hclr : ∀ rsvd, decode x ≠ .ok (.wrCtrl rsvd true)) : keyWritten i (es ++ [PortEvent.txn x]) = keyWritten i es := by
  simp only [keyWritten, List.foldl_append, List.foldl_cons, List.foldl_nil]

theorem goPerformed_other (hgo : ∀ rsvd len, decode x ≠ .ok (.wrGo rsvd len))
    (hclr : ∀ rsvd, decode x ≠ .ok (.wrCtrl rsvd true)) : goPerformed (es ++ [PortEvent.txn x]) = goPerformed es := by
  simp only [goPerformed, List.foldl_append, List.foldl_cons, List.foldl_nil]

end

/-! ### KEYMASK and DVALID after one more event -/

/-- Nothing of the state but KEYMASK and DVALID is looked at. -/
theorem State.FlagsTell.congr {es : List PortEvent} (h : s.FlagsTell es) (hm : t.keymask = s.keymask)
    (hd : t.dvalid = s.dvalid) : t.FlagsTell es := by
  obtain ⟨hk, hg⟩ := h
  exact ⟨hm ▸ hk, hd ▸ hg⟩

theorem flagsTell_nil : State.reset.FlagsTell [] :=
  ⟨fun _ => BitVec.getLsbD_zero, rfl⟩

theorem flagsTell_reset (es : List PortEvent) (s : State) : s.resetBlock.FlagsTell (es ++ [PortEvent.reset]) :=
  ⟨fun _ => keyWritten_reset ▸ BitVec.getLsbD_zero, goPerformed_reset.symm⟩

/-- An instruction that neither loads a key word nor starts a GO nor clears the unit changes nothing they tell. -/
theorem State.FlagsTell.other {es : List PortEvent} (h : s.FlagsTell es) {x : T43} {j : Instr}
    (hd : decode x = .ok j) (hkey : ∀ n v, j ≠ .wrKey n v) (hgo : ∀ rsvd len, j ≠ .wrGo rsvd len)
    (hclr : ∀ rsvd, j ≠ .wrCtrl rsvd true) : s.FlagsTell (es ++ [PortEvent.txn x]) := by
  obtain ⟨hk, hg⟩ := h
  have hclr' : ∀ rsvd, decode x ≠ .ok (.wrCtrl rsvd true) := by simpa [hd] using hclr
  exact ⟨fun n => (hk n).trans (keyWritten_other (by simpa [hd] using hkey) hclr').symm,
    hg.trans (goPerformed_other (by simpa [hd] using hgo) hclr').symm⟩

end Sys2Proof.Machine
end

section
/-! PROOFS. The invariant of the block's state: it holds after reset and every step keeps it (R12, R17, R19). -/

namespace Sys2Proof.Machine

variable {s t : State}

/-! ### The record and the flags under the named updates -/

theorem reset_inv : State.reset.Inv where
  record := ⟨fun _ => ⟨rfl, rfl, rfl⟩, nofun⟩
  flags := ⟨fun i _ => by fin_cases i <;> rfl, fun _ => rfl, nofun⟩

/-- The reset event leaves the block as State.reset has it, whatever stands at the port. -/
theorem resetBlock_inv (s : State) : s.resetBlock.Inv :=
  ⟨reset_inv.record, reset_inv.flags⟩

/-- CTRL.CLR keeps the record, and gives key and flags their values of reset (R91). -/
theorem State.Inv.clearCipher (h : s.Inv) : s.clearCipher.Inv :=
  ⟨h.record, reset_inv.flags⟩

/-- A complete key stays complete when one of its words is loaded again. -/
theorem maskWith_complete : ∀ i : Fin 4, maskWith 0b1111 i = 0b1111 := by decide

theorem State.Inv.loadKey (h : s.Inv) (n : Fin 4) (v : Word) : (s.loadKey n v).Inv := by
  obtain ⟨hrec, hkey, hdout, hmask⟩ := h
  refine ⟨hrec, fun i hi => ?_, hdout, fun hd => ?_⟩
  · rw [loadKey_keymask, maskWith_bit, Bool.or_eq_false_iff] at hi
    obtain ⟨hbit, hne⟩ := hi
    rw [loadKey_key, Four.get_set_other _ _ (by simpa using hne), hkey i hbit]
  · rw [loadKey_keymask, hmask hd, maskWith_complete]

/-- The block operation sets DVALID, and it needs the key complete (R86). -/
theorem State.Inv.processBlock (h : s.Inv) (len : BitVec 5) (hk : keyComplete s.keymask = true) :
    (s.processBlock len).Inv := by
  obtain ⟨hrec, hkey, -, -⟩ := h
  exact ⟨hrec, hkey, nofun, fun _ => by simpa [keyComplete] using hk⟩

/-- Fault entry writes a record R170 allows: BADACC at any index in either direction, the others as a write at GO. -/
theorem State.Inv.raiseFault (h : s.Inv) {c : Cause} {d : Bool} {a : Widx}
    (hgo : c = .badacc ∨ (d = true ∧ a = 0x010)) : (s.raiseFault c d a).Inv := by
  refine ⟨⟨nofun, fun _ => ?_⟩, h.flags⟩
  obtain rfl | ⟨rfl, rfl⟩ := hgo
  · exact .inr (.inr rfl)
  · cases c with
    | keylen => exact .inl ⟨rfl, rfl, rfl⟩
    | badlen => exact .inr (.inl ⟨rfl, rfl, rfl⟩)
    | badacc => exact .inr (.inr rfl)

/-- What the port returned is no part of the invariant. -/
theorem State.Inv.respond (h : s.Inv) (v : Word) : (s.respond v).Inv :=
  ⟨h.record, h.flags⟩

/-! ### Instructions, transactions, steps -/

theorem Effect.inv {i : Instr} (e : Effect s i t) (h : s.Inv) : t.Inv := by
  cases e with
  | ignored | notCleared | crcNotRestarted => exact h
  | keyLoaded n v => exact h.loadKey n v
  | nonceLoaded | dinLoaded | byteFed | crcRestarted => exact ⟨h.record, h.flags⟩
  | blockDone len _ _ hk => exact h.processBlock len hk
  | badLength | badKey => exact h.raiseFault (.inr ⟨rfl, rfl⟩)
  | cleared => exact h.clearCipher
  | answered v => exact h.respond v
  | badWritten => exact h.raiseFault (.inl rfl)
  | badReadRunning => exact (h.raiseFault (.inl rfl)).respond 0
  | badReadHalted => exact h.respond 0

theorem runTxn_inv {x : T43} (hx : runTxn x s = .next t) (h : s.Inv) : t.Inv := by
  obtain ⟨i, -, hi⟩ | ⟨d, w, -, hr⟩ := runTxn_cases hx
  · exact (exec_effect hi).inv h
  · obtain ⟨-, -, rfl⟩ | ⟨-, -, rfl⟩ | ⟨-, -, rfl⟩ | ⟨-, -, rfl⟩ := takeReserved_cases hr
    · exact h
    · exact h.respond 0
    · exact h.raiseFault (.inl rfl)
    · exact (h.raiseFault (.inl rfl)).respond 0

theorem step_inv (hs : step s = .next t) (h : s.Inv) : t.Inv := by
  obtain ⟨-, rfl⟩ | ⟨rest, -, rfl⟩ | ⟨x, rest, -, hx⟩ := step_cases hs
  · exact h
  · exact resetBlock_inv _
  · exact runTxn_inv hx ⟨h.record, h.flags⟩

end Sys2Proof.Machine

namespace Sys2Proof

/-- Settles O29: every element of the record and of the cipher unit is 0 after reset. -/
theorem resetMeetsTheInvariant : Obligations.ResetMeetsTheInvariant :=
  Machine.reset_inv

/-- Settles O30: a step is idle, resets, or runs one transaction, and each effect of a transaction keeps the record and
the flags coherent. -/
theorem everyStepKeepsTheInvariant : Obligations.EveryStepKeepsTheInvariant := by
  unfold Obligations.EveryStepKeepsTheInvariant
  intro s t h hs
  exact Machine.step_inv hs h

end Sys2Proof
end

section
/-! PROOFS. The register map: a register is at its own index alone, and its access column says which direction decodes to
a legal row (R26, R65). -/

namespace Sys2Proof

/-! ### The fields of a word index (R62) -/

/-- Cut at bit k, a word index is put together again from the two parts. -/
theorem Widx.eq_ofNat_parts {w : Widx} {hi lo : Nat} (k : Nat) (hhi : hi = w.toNat / k) (hlo : lo = w.toNat % k) :
    w = BitVec.ofNat 10 (k * hi + lo) := by
  rw [hhi, hlo, Nat.div_add_mod, BitVec.ofNat_toNat, BitVec.setWidth_eq]

/-- An index in a group of four is the group's first index and the quarter. -/
theorem Widx.eq_of_group {w : Widx} {g : BitVec 8} (h : w.extractLsb' 2 8 = g) :
    w = BitVec.ofNat 10 (4 * g.toNat + w.quarter.val) := by
  refine Widx.eq_ofNat_parts 4 ?_ (by simp [Widx.quarter])
  rw [← h, BitVec.extractLsb'_toNat, Nat.shiftRight_eq_div_pow]
  omega

/-- An index in a page of 256 is the page's first index and the entry. -/
theorem Widx.eq_of_page {w : Widx} {p : BitVec 2} (h : w.extractLsb' 8 2 = p) :
    w = BitVec.ofNat 10 (256 * p.toNat + w.entry.toNat) := by
  refine Widx.eq_ofNat_parts 256 ?_ (by simp [Widx.entry])
  rw [← h, BitVec.extractLsb'_toNat, Nat.shiftRight_eq_div_pow]
  omega

/-! ### The map (R26) -/

/-- One test of the map: a register found by it has the index its arm gives, one found further on has its own. -/
theorem Reg.eq_widx_of_ite {w : Widx} {r a : Reg} {c : Prop} [Decidable c] {o : Option Reg}
    (h : (if c then some a else o) = some r) (harm : c → w = a.widx) (hrest : o = some r → w = r.widx) :
    w = r.widx := by
  obtain ⟨hc, h⟩ | ⟨-, h⟩ := ite_eq_iff.mp h
  · cases h
    exact harm hc
  · exact hrest h

/-- A register found at an index has that index: the four groups, the seven single registers, then the CRC table. -/
theorem eq_widx_of_regAt {w : Widx} {r : Reg} (h : regAt w = some r) : w = r.widx :=
  Reg.eq_widx_of_ite h Widx.eq_of_group fun h => Reg.eq_widx_of_ite h Widx.eq_of_group fun h =>
  Reg.eq_widx_of_ite h Widx.eq_of_group fun h => Reg.eq_widx_of_ite h Widx.eq_of_group fun h =>
  Reg.eq_widx_of_ite h id fun h => Reg.eq_widx_of_ite h id fun h => Reg.eq_widx_of_ite h id fun h =>
  Reg.eq_widx_of_ite h id fun h => Reg.eq_widx_of_ite h id fun h => Reg.eq_widx_of_ite h id fun h =>
  Reg.eq_widx_of_ite h id fun h => Reg.eq_widx_of_ite h Widx.eq_of_page nofun

theorem regAt_eq_some_iff (w : Widx) (r : Reg) : regAt w = some r ↔ w = r.widx := by
  constructor
  · exact eq_widx_of_regAt
  · rintro rfl
    exact regAt_widx r

/-! ### The access column (R26) against the wrong-direction rows (R65) -/

theorem decodeWrite_isIllegal (d : Word) (r : Reg) : (decodeWrite d r).isIllegal = !r.access.allows true := by
  cases r <;> rfl

theorem decodeRead_isIllegal (r : Reg) : (decodeRead r).isIllegal = !r.access.allows false := by
  cases r <;> rfl

/-- What a word at a mapped index decodes to is illegal exactly when the access column forbids its direction. -/
theorem isIllegal_of_decode {x : T43} {r : Reg} {i : Instr} (hr : regAt x.widx = some r) (hi : decode x = .ok i) :
    i.isIllegal = !r.access.allows x.dir := by
  rw [decode, hr] at hi
  cases hi
  cases x.dir with
  | true => exact decodeWrite_isIllegal x.wdata r
  | false => exact decodeRead_isIllegal r

/-- Settles O26: an index is put together from the fields the register map tells it by, so a register has one index; and
an illegal row is one whose direction the access column forbids. -/
theorem registerMapGivesIndexAndAccess : Obligations.RegisterMapGivesIndexAndAccess := by
  unfold Obligations.RegisterMapGivesIndexAndAccess
  refine ⟨regAt_eq_some_iff, fun x r i hr hi => ?_⟩
  rw [isIllegal_of_decode hr hi, Bool.not_eq_false']

end Sys2Proof
end

section
/-! PROOFS. What DVALID and KEY decide: two states related by a difference the transactions do not look at answer alike
and stay related (R11, R17, R24). -/

namespace Sys2Proof.Machine

/-! ### Outcomes related by what their states are related by -/

/-- Both answer, with related next states. -/
def Alike (R : State → State → Prop) (o o' : Host.Outcome State Fault Refusal) : Prop :=
  ∃ t u, o = .next t ∧ o' = .next u ∧ R t u

/-- Related states are halted alike, have the same KEYMASK, and stay related when a fault is entered or a read answered:
what the control of every transaction needs. -/
structure KeepsControl (R : State → State → Prop) : Prop where
  fault : ∀ {s u}, R s u → u.fault = s.fault
  keymask : ∀ {s u}, R s u → u.keymask = s.keymask
  raiseFault : ∀ {s u}, R s u → ∀ c d a, R (s.raiseFault c d a) (u.raiseFault c d a)
  respond : ∀ {s u}, R s u → ∀ v, R (s.respond v) (u.respond v)

/-- Related states also hold the same in every register a read answers, STATUS apart, and stay related under every write
but GO: the difference between them is one these transactions do not look at. -/
structure KeepsRegisters (R : State → State → Prop) : Prop extends KeepsControl R where
  nonce : ∀ {s u}, R s u → u.nonce = s.nonce
  din : ∀ {s u}, R s u → u.din = s.din
  dout : ∀ {s u}, R s u → u.dout = s.dout
  crcAcc : ∀ {s u}, R s u → u.crcAcc = s.crcAcc
  loadKey : ∀ {s u}, R s u → ∀ i v, R (s.loadKey i v) (u.loadKey i v)
  loadNonce : ∀ {s u}, R s u → ∀ i v, R (s.loadNonce i v) (u.loadNonce i v)
  loadDin : ∀ {s u}, R s u → ∀ i v, R (s.loadDin i v) (u.loadDin i v)
  clearCipher : ∀ {s u}, R s u → R s.clearCipher u.clearCipher
  crcRestart : ∀ {s u}, R s u → R s.crcRestart u.crcRestart
  crcFeed : ∀ {s u}, R s u → ∀ b, R (s.crcFeed b) (u.crcFeed b)

section
variable {R : State → State → Prop} {s u : State}

/-! ### The shapes of a transaction -/

theorem KeepsControl.writeTxn_alike (hR : KeepsControl R) (h : R s u) {f : State → State} (hf : R (f s) (f u)) :
    Alike R (writeTxn f s) (writeTxn f u) := by
  refine ⟨_, _, rfl, rfl, ?_⟩
  rw [hR.fault h]
  cases s.fault with
  | true => exact h
  | false => exact hf

theorem KeepsControl.readTxn_alike (hR : KeepsControl R) (h : R s u) {v v' : Word} (hv : v' = v) :
    Alike R (readTxn v s) (readTxn v' u) :=
  ⟨_, _, rfl, rfl, hv ▸ hR.respond h v⟩

theorem KeepsControl.badWrite_alike (hR : KeepsControl R) (h : R s u) (a : Widx) :
    Alike R (badWrite a s) (badWrite a u) :=
  hR.writeTxn_alike h (hR.raiseFault h .badacc true a)

theorem KeepsControl.badRead_alike (hR : KeepsControl R) (h : R s u) (a : Widx) :
    Alike R (badRead a s) (badRead a u) := by
  refine ⟨_, _, rfl, rfl, hR.respond ?_ 0⟩
  rw [hR.fault h]
  cases s.fault with
  | true => exact h
  | false => exact hR.raiseFault h .badacc false a

theorem KeepsControl.takeReserved_alike (hR : KeepsControl R) (h : R s u) (d : Bool) (w : Widx) :
    Alike R (takeReserved (.reserved d w) s) (takeReserved (.reserved d w) u) := by
  cases d with
  | true => exact hR.badWrite_alike h w
  | false => exact hR.badRead_alike h w

/-- A write that tests its reserved bits first: BADACC, or its effect. -/
theorem KeepsControl.ite_raiseFault (hR : KeepsControl R) (h : R s u) {p : Prop} [Decidable p] (c : Cause) (a : Widx)
    {s' u' : State} (h' : R s' u') :
    R (if p then s.raiseFault c true a else s') (if p then u.raiseFault c true a else u') := by
  split
  · exact hR.raiseFault h c true a
  · exact h'

/-- A GO tests nothing but its operands and KEYMASK, so related states take the same fault or both do the block. -/
theorem KeepsControl.go (hR : KeepsControl R) (h : R s u) (rsvd : BitVec 27) (len : BitVec 5)
    (hblock : R (s.processBlock len) (u.processBlock len)) : R (s.go rsvd len) (u.go rsvd len) := by
  unfold State.go
  rw [hR.keymask h]
  exact hR.ite_raiseFault h _ _ (hR.ite_raiseFault h _ _ (hR.ite_raiseFault h _ _ hblock))

/-! ### Instructions and transactions -/

/-- Related states answer alike: a status read needs the same STATUS of them, a GO related states after the block. -/
theorem KeepsRegisters.exec_alike (hR : KeepsRegisters R) (h : R s u) (i : Instr)
    (hstatus : i = .rdStatus → u.statusWord = s.statusWord)
    (hblock : ∀ rsvd len, i = .wrGo rsvd len → R (s.processBlock len) (u.processBlock len)) :
    Alike R (exec i s) (exec i u) := by
  cases i with
  | wrKey n v => exact hR.writeTxn_alike h (hR.loadKey h n v)
  | wrNonce n v => exact hR.writeTxn_alike h (hR.loadNonce h n v)
  | wrDin n v => exact hR.writeTxn_alike h (hR.loadDin h n v)
  | wrGo rsvd len => exact hR.writeTxn_alike h (hR.go h rsvd len (hblock rsvd len rfl))
  | wrCtrl rsvd clr =>
    refine hR.writeTxn_alike h (hR.ite_raiseFault h _ _ ?_)
    cases clr with
    | true => exact hR.clearCipher h
    | false => exact h
  | wrCrcData rsvd b => exact hR.writeTxn_alike h (hR.ite_raiseFault h _ _ (hR.crcFeed h b))
  | wrCrcCtrl rsvd init =>
    refine hR.writeTxn_alike h (hR.ite_raiseFault h _ _ ?_)
    cases init with
    | true => exact hR.crcRestart h
    | false => exact h
  | rdNonce n => exact hR.readTxn_alike h (by rw [hR.nonce h])
  | rdDin n => exact hR.readTxn_alike h (by rw [hR.din h])
  | rdDout n => exact hR.readTxn_alike h (by rw [hR.dout h])
  | rdCrcAcc => exact hR.readTxn_alike h (hR.crcAcc h)
  | rdCrcResult => exact hR.readTxn_alike h (by rw [hR.crcAcc h])
  | rdStatus => exact hR.readTxn_alike h (hstatus rfl)
  | rdCrcTable idx => exact hR.readTxn_alike h rfl
  | illegalRdKey n => exact hR.badRead_alike h _
  | illegalRdGo => exact hR.badRead_alike h _
  | illegalRdCtrl => exact hR.badRead_alike h _
  | illegalRdCrcData => exact hR.badRead_alike h _
  | illegalRdCrcCtrl => exact hR.badRead_alike h _
  | illegalWrDout n => exact hR.badWrite_alike h _
  | illegalWrCrcAcc => exact hR.badWrite_alike h _
  | illegalWrCrcResult => exact hR.badWrite_alike h _
  | illegalWrStatus => exact hR.badWrite_alike h _
  | illegalWrCrcTable idx => exact hR.badWrite_alike h _

/-- The same of transactions, mapped or reserved. -/
theorem KeepsRegisters.runTxn_alike (hR : KeepsRegisters R) (h : R s u) (x : T43)
    (hstatus : decode x = .ok .rdStatus → u.statusWord = s.statusWord)
    (hblock : ∀ rsvd len, decode x = .ok (.wrGo rsvd len) → R (s.processBlock len) (u.processBlock len)) :
    Alike R (runTxn x s) (runTxn x u) := by
  unfold runTxn
  cases hd : decode x with
  | ok i =>
    exact hR.exec_alike h i (fun e => hstatus (by rw [hd, e])) fun rsvd len e => hblock rsvd len (by rw [hd, e])
  | error e => exact hR.takeReserved_alike h e.1 e.2

/-- What an alike outcome says once one side is known. -/
theorem Alike.of_next {o o' : Host.Outcome State Fault Refusal} {t : State} (h : Alike R o o') (ho : o = .next t) :
    ∃ u, o' = .next u ∧ R t u := by
  obtain ⟨t', u, h₁, h₂, hR⟩ := h
  cases ho.symm.trans h₁
  exact ⟨u, h₂, hR⟩

end

/-! ### The three differences -/

/-- u is s but for DVALID. -/
def SameButDvalid (s u : State) : Prop := ∃ d, u = { s with dvalid := d }

/-- u is s but for KEY. -/
def SameButKey (s u : State) : Prop := ∃ k, u = { s with key := k }

/-- u is s but for DOUT, and for KEY, which is k in u. -/
def SameButKeyAndDout (k : Quad) (s u : State) : Prop := ∃ o, u = { s with key := k, dout := o }

theorem sameButDvalid_keepsRegisters : KeepsRegisters SameButDvalid where
  fault := by rintro s _ ⟨d, rfl⟩; rfl
  keymask := by rintro s _ ⟨d, rfl⟩; rfl
  nonce := by rintro s _ ⟨d, rfl⟩; rfl
  din := by rintro s _ ⟨d, rfl⟩; rfl
  dout := by rintro s _ ⟨d, rfl⟩; rfl
  crcAcc := by rintro s _ ⟨d, rfl⟩; rfl
  raiseFault := by rintro s _ ⟨d, rfl⟩ c w a; exact ⟨_, rfl⟩
  respond := by rintro s _ ⟨d, rfl⟩ v; exact ⟨_, rfl⟩
  loadKey := by rintro s _ ⟨d, rfl⟩ i v; exact ⟨_, rfl⟩
  loadNonce := by rintro s _ ⟨d, rfl⟩ i v; exact ⟨_, rfl⟩
  loadDin := by rintro s _ ⟨d, rfl⟩ i v; exact ⟨_, rfl⟩
  clearCipher := by rintro s _ ⟨d, rfl⟩; exact ⟨_, rfl⟩
  crcRestart := by rintro s _ ⟨d, rfl⟩; exact ⟨_, rfl⟩
  crcFeed := by rintro s _ ⟨d, rfl⟩ b; exact ⟨_, rfl⟩

theorem sameButKey_keepsRegisters : KeepsRegisters SameButKey where
  fault := by rintro s _ ⟨k, rfl⟩; rfl
  keymask := by rintro s _ ⟨k, rfl⟩; rfl
  nonce := by rintro s _ ⟨k, rfl⟩; rfl
  din := by rintro s _ ⟨k, rfl⟩; rfl
  dout := by rintro s _ ⟨k, rfl⟩; rfl
  crcAcc := by rintro s _ ⟨k, rfl⟩; rfl
  raiseFault := by rintro s _ ⟨k, rfl⟩ c w a; exact ⟨_, rfl⟩
  respond := by rintro s _ ⟨k, rfl⟩ v; exact ⟨_, rfl⟩
  loadKey := by rintro s _ ⟨k, rfl⟩ i v; exact ⟨_, rfl⟩
  loadNonce := by rintro s _ ⟨k, rfl⟩ i v; exact ⟨_, rfl⟩
  loadDin := by rintro s _ ⟨k, rfl⟩ i v; exact ⟨_, rfl⟩
  clearCipher := by rintro s _ ⟨k, rfl⟩; exact ⟨_, rfl⟩
  crcRestart := by rintro s _ ⟨k, rfl⟩; exact ⟨_, rfl⟩
  crcFeed := by rintro s _ ⟨k, rfl⟩ b; exact ⟨_, rfl⟩

theorem sameButKeyAndDout_keepsControl (k : Quad) : KeepsControl (SameButKeyAndDout k) where
  fault := by rintro s _ ⟨o, rfl⟩; rfl
  keymask := by rintro s _ ⟨o, rfl⟩; rfl
  raiseFault := by rintro s _ ⟨o, rfl⟩ c w a; exact ⟨_, rfl⟩
  respond := by rintro s _ ⟨o, rfl⟩ v; exact ⟨_, rfl⟩

/-- DVALID is not among what the block operation is computed from (R86). -/
theorem SameButDvalid.processBlock {s u : State} (h : SameButDvalid s u) (len : BitVec 5) :
    SameButDvalid (s.processBlock len) (u.processBlock len) := by
  obtain ⟨d, rfl⟩ := h
  exact ⟨_, rfl⟩

/-- The block operation takes KEY into DOUT and nowhere else (R86, R180). -/
theorem SameButKeyAndDout.processBlock {k : Quad} {s u : State} (h : SameButKeyAndDout k s u) (len : BitVec 5) :
    SameButKeyAndDout k (s.processBlock len) (u.processBlock len) := by
  obtain ⟨o, rfl⟩ := h
  exact ⟨_, rfl⟩

/-- STATUS has no bit of KEY (R27). -/
theorem SameButKey.statusWord {s u : State} (h : SameButKey s u) : u.statusWord = s.statusWord := by
  obtain ⟨k, rfl⟩ := h
  rfl

/-- A GO lets a difference in KEY and DOUT reach nothing else. -/
theorem SameButKeyAndDout.runTxn_go {k : Quad} {s u : State} (h : SameButKeyAndDout k s u) {x : T43}
    {rsvd : BitVec 27} {len : BitVec 5} (hd : decode x = .ok (.wrGo rsvd len)) :
    Alike (SameButKeyAndDout k) (runTxn x s) (runTxn x u) := by
  have hR := sameButKeyAndDout_keepsControl k
  simp only [runTxn, hd]
  exact hR.writeTxn_alike h (hR.go h rsvd len (h.processBlock len))

end Sys2Proof.Machine

namespace Sys2Proof

open Machine

/-- Settles O34: being the same but for DVALID is kept by every transaction, and only STATUS shows the difference. -/
theorem dvalidDecidesNothing : Obligations.DvalidDecidesNothing := by
  unfold Obligations.DvalidDecidesNothing
  intro x d s t hx ht
  have h : SameButDvalid s { s with dvalid := d } := ⟨d, rfl⟩
  have halike := sameButDvalid_keepsRegisters.runTxn_alike h x (fun e => absurd e hx) fun _ len _ => h.processBlock len
  obtain ⟨_, hu, d', rfl⟩ := halike.of_next ht
  exact ⟨d', hu⟩

/-- Settles O35: being the same but for KEY is kept by every transaction that is no GO; a GO keeps being the same but for
DOUT and the KEY it began with. -/
theorem keyIsReadOnlyByGo : Obligations.KeyIsReadOnlyByGo := by
  unfold Obligations.KeyIsReadOnlyByGo
  intro x k s t ht
  constructor
  · intro hx
    have h : SameButKey s { s with key := k } := ⟨k, rfl⟩
    have halike := sameButKey_keepsRegisters.runTxn_alike h x (fun _ => h.statusWord) fun r l e => absurd e (hx r l)
    obtain ⟨_, hu, k', rfl⟩ := halike.of_next ht
    exact ⟨k', hu⟩
  · intro rsvd len hd
    have h : SameButKeyAndDout k s { s with key := k } := ⟨s.dout, rfl⟩
    obtain ⟨_, hu, o, rfl⟩ := (h.runTxn_go hd).of_next ht
    exact ⟨o, hu⟩

end Sys2Proof
end

section
/-! PROOFS. Who writes each state element (R13, R15, R16, R18, R19, R24). -/

namespace Sys2Proof.Machine

variable {s t : State} {i : Instr}

/-! ### A transaction is one effect of its instruction, or touches nothing but the fault record -/

/-- An access to a reserved index can write the fault record and a response, and nothing else (R63). -/
theorem takeReserved_frame {d : Bool} {w : Widx} (h : takeReserved (.reserved d w) s = .next t) :
    t = { s with fault := t.fault, fcause := t.fcause, fdir := t.fdir, faddr := t.faddr,
                 responses := t.responses } := by
  obtain ⟨-, -, rfl⟩ | ⟨-, -, rfl⟩ | ⟨-, -, rfl⟩ | ⟨-, -, rfl⟩ := takeReserved_cases h <;> rfl

theorem runTxn_effect {x : T43} (h : runTxn x s = .next t) :
    (∃ i, decode x = .ok i ∧ Effect s i t) ∨
    (∃ d w, decode x = .error (.reserved d w) ∧
      t = { s with fault := t.fault, fcause := t.fcause, fdir := t.fdir, faddr := t.faddr,
                   responses := t.responses }) := by
  obtain ⟨i, hd, hi⟩ | ⟨d, w, hd, hr⟩ := runTxn_cases h
  · exact .inl ⟨i, hd, exec_effect hi⟩
  · exact .inr ⟨d, w, hd, takeReserved_frame hr⟩

/-! ### The registers -/

/-- KEY[j] is written by WR.KEY j and CTRL.CLR (R11). -/
theorem Effect.key_writers (e : Effect s i t) {j : Fin 4} (h : t.key.get j ≠ s.key.get j) :
    (∃ v, i = .wrKey j v) ∨ i = .wrCtrl 0 true := by
  cases e with
  | keyLoaded n v =>
    obtain rfl : j = n := by_contra fun hj => h (Four.get_set_other _ _ hj)
    exact .inl ⟨v, rfl⟩
  | cleared => exact .inr rfl
  | _ => exact absurd rfl h

/-- KEYMASK[j] is set by WR.KEY j and cleared by CTRL.CLR (R12). -/
theorem Effect.keymask_writers (e : Effect s i t) {j : Fin 4}
    (h : t.keymask.getLsbD j.val ≠ s.keymask.getLsbD j.val) :
    (∃ v, i = .wrKey j v) ∨ i = .wrCtrl 0 true := by
  cases e with
  | keyLoaded n v =>
    obtain rfl : j = n := by
      by_contra hj
      exact h (by rw [loadKey_keymask, maskWith_bit, beq_eq_false_iff_ne.mpr hj, Bool.or_false])
    exact .inl ⟨v, rfl⟩
  | cleared => exact .inr rfl
  | _ => exact absurd rfl h

/-- NONCE[j] is written by WR.NONCE j and CTRL.CLR, and NONCE[3] is counted up by a GO (R13). -/
theorem Effect.nonce_writers (e : Effect s i t) {j : Fin 4} (h : t.nonce.get j ≠ s.nonce.get j) :
    (∃ v, i = .wrNonce j v) ∨ i = .wrCtrl 0 true ∨ (j = 3 ∧ ∃ len, i = .wrGo 0 len) := by
  cases e with
  | nonceLoaded n v =>
    obtain rfl : j = n := by_contra fun hj => h (Four.get_set_other _ _ hj)
    exact .inl ⟨v, rfl⟩
  | cleared => exact .inr (.inl rfl)
  | blockDone len =>
    match j, h with
    | 0, h | 1, h | 2, h => exact absurd rfl h
    | 3, _ => exact .inr (.inr ⟨rfl, len, rfl⟩)
  | _ => exact absurd rfl h

/-- DIN[j] is written by WR.DIN j and CTRL.CLR (R15). -/
theorem Effect.din_writers (e : Effect s i t) {j : Fin 4} (h : t.din.get j ≠ s.din.get j) :
    (∃ v, i = .wrDin j v) ∨ i = .wrCtrl 0 true := by
  cases e with
  | dinLoaded n v =>
    obtain rfl : j = n := by_contra fun hj => h (Four.get_set_other _ _ hj)
    exact .inl ⟨v, rfl⟩
  | cleared => exact .inr rfl
  | _ => exact absurd rfl h

/-- DOUT is written by a GO and CTRL.CLR (R16). -/
theorem Effect.dout_writers (e : Effect s i t) (h : t.dout ≠ s.dout) :
    (∃ len, i = .wrGo 0 len) ∨ i = .wrCtrl 0 true := by
  cases e with
  | blockDone len => exact .inl ⟨len, rfl⟩
  | cleared => exact .inr rfl
  | _ => exact absurd rfl h

/-- DVALID is set by a GO and cleared by CTRL.CLR (R17, R24). -/
theorem Effect.dvalid_writers (e : Effect s i t) (h : t.dvalid ≠ s.dvalid) :
    (t.dvalid = true ∧ ∃ len, i = .wrGo 0 len) ∨ (t.dvalid = false ∧ i = .wrCtrl 0 true) := by
  cases e with
  | blockDone len => exact .inl ⟨rfl, len, rfl⟩
  | cleared => exact .inr ⟨rfl, rfl⟩
  | _ => exact absurd rfl h

/-- CRC_ACC is written by CRC_DATA and CRC_CTRL.INIT (R18). -/
theorem Effect.crcAcc_writers (e : Effect s i t) (h : t.crcAcc ≠ s.crcAcc) :
    (∃ b, i = .wrCrcData 0 b) ∨ i = .wrCrcCtrl 0 true := by
  cases e with
  | byteFed b => exact .inl ⟨b, rfl⟩
  | crcRestarted => exact .inr rfl
  | _ => exact absurd rfl h

/-! ### The fault record -/

theorem lenLegal_eq_false_iff (len : BitVec 5) : lenLegal len = false ↔ len.toNat = 0 ∨ 16 < len.toNat := by
  rw [lenLegal, Bool.and_eq_false_iff, decide_eq_false_iff_not, decide_eq_false_iff_not]
  omega

theorem wellFormed_of_isIllegal (h : i.isIllegal = true) : i.wellFormed = false := by
  cases i with
  | illegalRdKey | illegalWrDout | illegalRdGo | illegalRdCtrl | illegalRdCrcData => rfl
  | illegalWrCrcAcc | illegalWrCrcResult | illegalRdCrcCtrl | illegalWrStatus | illegalWrCrcTable => rfl
  | _ => cases h

/-- A GO whose length is illegal raises BADLEN (R172). -/
theorem causeOf_go_badLength {len : BitVec 5} (mask : BitVec 4) (h : lenLegal len = false) :
    causeOf (.ok (.wrGo 0 len)) mask = 2 := by
  simp [causeOf, (lenLegal_eq_false_iff len).mp h]

/-- A GO of legal length without a complete key raises KEYLEN (R171). -/
theorem causeOf_go_badKey {len : BitVec 5} {mask : BitVec 4} (hl : lenLegal len = true)
    (hk : keyComplete mask = false) : causeOf (.ok (.wrGo 0 len)) mask = 1 := by
  have hlen : ¬(len.toNat = 0 ∨ 16 < len.toNat) := by simp [← lenLegal_eq_false_iff, hl]
  have hmask : mask ≠ 0b1111 := by simpa [keyComplete] using hk
  simpa [causeOf, hlen] using hmask

/-- Whatever KEYMASK is, an ill-formed transaction raises a cause (R172, R173). -/
theorem causeOf_ne_zero_of_not_wellFormed (mask : BitVec 4) (h : i.wellFormed = false) :
    causeOf (.ok i) mask ≠ 0 := by
  have hthree : (3 : BitVec 4) ≠ 0 := by decide
  cases i with
  | wrGo rsvd len =>
    by_cases hr : rsvd = 0
    · subst hr
      have hl : lenLegal len = false := by simpa [Instr.wellFormed, lenLegal] using h
      rw [causeOf_go_badLength mask hl]
      decide
    · exact (if_pos hr).trans_ne hthree
  | wrCtrl rsvd _ | wrCrcData rsvd _ | wrCrcCtrl rsvd _ =>
    have hr : rsvd ≠ 0 := by simpa [Instr.wellFormed] using h
    exact (if_pos hr).trans_ne hthree
  | illegalRdKey | illegalWrDout | illegalRdGo | illegalRdCtrl | illegalRdCrcData => exact hthree
  | illegalWrCrcAcc | illegalWrCrcResult | illegalRdCrcCtrl | illegalWrStatus | illegalWrCrcTable => exact hthree
  | _ => cases h

/-- The record is written where a fault is entered, from FAULT = 0 and with a cause raised (R170, R174). -/
theorem Effect.record_writers (e : Effect s i t)
    (h : t.fault ≠ s.fault ∨ t.fcause ≠ s.fcause ∨ t.fdir ≠ s.fdir ∨ t.faddr ≠ s.faddr) :
    s.fault = false ∧ causeOf (.ok i) s.keymask ≠ 0 := by
  cases e with
  | badLength len hf hl => exact ⟨hf, (causeOf_go_badLength _ hl).trans_ne (by decide)⟩
  | badKey len hf hl hk => exact ⟨hf, (causeOf_go_badKey hl hk).trans_ne (by decide)⟩
  | badWritten _ hwf hf => exact ⟨hf, causeOf_ne_zero_of_not_wellFormed _ hwf⟩
  | badReadRunning _ hill hf => exact ⟨hf, causeOf_ne_zero_of_not_wellFormed _ (wellFormed_of_isIllegal hill)⟩
  | _ => simp at h

theorem runTxn_record_writers {x : T43} (hx : runTxn x s = .next t)
    (h : t.fault ≠ s.fault ∨ t.fcause ≠ s.fcause ∨ t.fdir ≠ s.fdir ∨ t.faddr ≠ s.faddr) :
    s.fault = false ∧ causeOf (decode x) s.keymask ≠ 0 := by
  obtain ⟨i, hd, hi⟩ | ⟨d, w, hd, hr⟩ := runTxn_cases hx
  · rw [hd]
    exact (exec_effect hi).record_writers h
  · rw [hd]
    refine ⟨?_, by simp [causeOf]⟩
    obtain ⟨-, hf, rfl⟩ | ⟨-, hf, rfl⟩ | ⟨-, hf, rfl⟩ | ⟨-, hf, rfl⟩ := takeReserved_cases hr
    · simp at h
    · simp at h
    · exact hf
    · exact hf

end Sys2Proof.Machine

namespace Sys2Proof

open Machine

/-- Settles O31: an instruction's effects name each register's writers, an access to a reserved index writes no register,
and the record is written where a fault is entered. -/
theorem eachElementHasOnlyItsWriters : Obligations.EachElementHasOnlyItsWriters := by
  unfold Obligations.EachElementHasOnlyItsWriters
  intro x s t hx
  have hrec := runTxn_record_writers hx
  obtain ⟨i, hd, e⟩ | ⟨d, w, -, ht⟩ := runTxn_effect hx
  · simp only [hd, Except.ok.injEq] at hrec ⊢
    exact ⟨fun _ => e.key_writers, fun _ => e.keymask_writers, fun _ => e.nonce_writers, fun _ => e.din_writers,
      e.dout_writers, e.dvalid_writers, e.crcAcc_writers, hrec⟩
  · refine ⟨fun _ h => ?_, fun _ h => ?_, fun _ h => ?_, fun _ h => ?_, fun h => ?_, fun h => ?_, fun h => ?_, hrec⟩
    all_goals
      rw [ht] at h
      exact absurd rfl h

end Sys2Proof
end

section
/-! PROOFS. KEYMASK and DVALID along a run from reset (R12, R17, R174, R175). -/

namespace Sys2Proof.Machine

variable {s t : State}

/-! ### Runs from reset, taken apart at their last event -/

/-- From the reset state, with the events of pre and then those of post presented, serving pre leads to t. -/
def Reaches (pre post : List PortEvent) (t : State) : Prop :=
  Sys2Proof.core.run pre.length { State.reset with pending := pre ++ post } = .next t

theorem reaches_nil {post : List PortEvent} (h : Reaches [] post t) : t = { State.reset with pending := post } := by
  cases h
  rfl

/-- A run answers, and its last step is one step from where the run before it ends. -/
theorem run_succ_last {n : Nat} (h : Sys2Proof.core.run (n + 1) s = .next t) :
    ∃ u, Sys2Proof.core.run n s = .next u ∧ step u = .next t := by
  induction n generalizing s with
  | zero =>
    obtain ⟨u, hu⟩ := step_answers s
    rw [run_succ 0 hu] at h
    cases h
    exact ⟨s, rfl, hu⟩
  | succ n ih =>
    obtain ⟨v, hv⟩ := step_answers s
    rw [run_succ (n + 1) hv] at h
    rw [run_succ n hv]
    exact ih h

theorem Reaches.last {pre post : List PortEvent} {e : PortEvent} (h : Reaches (pre ++ [e]) post t) :
    ∃ u, Reaches pre (e :: post) u ∧ step u = .next t := by
  unfold Reaches at h ⊢
  rw [List.length_append, List.length_singleton, List.append_assoc, List.singleton_append] at h
  exact run_succ_last h

/-- What is served is off the list. -/
theorem Reaches.pending {pre post : List PortEvent} (h : Reaches pre post t) : t.pending = post := by
  induction pre using List.reverseRecOn generalizing post t with
  | nil => rw [reaches_nil h]
  | append_singleton pre e ih =>
    obtain ⟨u, hu, hs⟩ := h.last
    rw [step_pending hs, ih hu, List.tail_cons]

/-- The last event of a run is a reset, or a transaction run in the state the events before it lead to. -/
theorem Reaches.last_cases {pre post : List PortEvent} {e : PortEvent} (h : Reaches (pre ++ [e]) post t) :
    ∃ u, Reaches pre (e :: post) u ∧
      ((e = .reset ∧ t = State.resetBlock { u with pending := post }) ∨
        ∃ x, e = .txn x ∧ runTxn x { u with pending := post } = .next t) := by
  obtain ⟨u, hu, hs⟩ := h.last
  refine ⟨u, hu, ?_⟩
  have hp := hu.pending
  cases e with
  | reset =>
    rw [step_reset hp] at hs
    cases hs
    exact .inl ⟨rfl, rfl⟩
  | txn x =>
    rw [step_txn hp] at hs
    exact .inr ⟨x, rfl, hs⟩

/-! ### Transactions after which FAULT = 0 -/

theorem ne_of_isWrite {i j : Instr} (hi : i.isWrite = false) (hj : j.isWrite = true) : i ≠ j := by
  rintro rfl
  exact absurd (hi.symm.trans hj) Bool.false_ne_true

/-- A transaction after which FAULT = 0 did what the events say of it. -/
theorem runTxn_flagsTell {es : List PortEvent} {x : T43} (hx : runTxn x s = .next t) (hf : t.fault = false)
    (h : s.FlagsTell es) : t.FlagsTell (es ++ [PortEvent.txn x]) := by
  obtain ⟨i, hd, hi⟩ | ⟨d, w, -, hr⟩ := runTxn_cases hx
  · have ⟨hk, hg⟩ := h
    cases exec_effect hi with
    | keyLoaded n v =>
      refine ⟨fun j => ?_, ?_⟩
      · rw [loadKey_keymask, maskWith_bit, hk, keyWritten_wrKey hd, Bool.beq_comm]
      · rw [loadKey_dvalid, hg, goPerformed_other (by simp [hd]) (by simp [hd])]
    | blockDone len =>
      refine ⟨fun j => ?_, (goPerformed_go hd).symm⟩
      rw [processBlock_keymask, hk, keyWritten_other (by simp [hd]) (by simp [hd])]
    | cleared => exact ⟨fun j => keyWritten_clear hd ▸ BitVec.getLsbD_zero, (goPerformed_clear hd).symm⟩
    | nonceLoaded | dinLoaded | byteFed | crcRestarted => exact (h.other hd nofun nofun nofun).congr rfl rfl
    | notCleared | crcNotRestarted => exact h.other hd nofun nofun nofun
    | answered v hw =>
      have hkept : s.FlagsTell (es ++ [PortEvent.txn x]) :=
        h.other hd (fun _ _ => ne_of_isWrite hw (T43.dir_pack ..)) (fun _ _ => ne_of_isWrite hw (T43.dir_pack ..))
          (fun _ => ne_of_isWrite hw (T43.dir_pack ..))
      exact hkept.congr rfl rfl
    | ignored _ hs | badReadHalted _ _ hs => exact absurd (hf.symm.trans hs) Bool.false_ne_true
    | badLength | badKey | badWritten | badReadRunning => cases hf
  · obtain ⟨-, hs, rfl⟩ | ⟨-, hs, rfl⟩ | ⟨-, -, rfl⟩ | ⟨-, -, rfl⟩ := takeReserved_cases hr
    · exact absurd (hf.symm.trans hs) Bool.false_ne_true
    · exact absurd (hf.symm.trans hs) Bool.false_ne_true
    · cases hf
    · cases hf

/-! ### The halted block and fault entry -/

/-- No transaction ends a fault (R175). -/
theorem runTxn_stays_halted {x : T43} (hx : runTxn x s = .next t) (hf : s.fault = true) : t.fault = true := by
  by_contra ht
  obtain ⟨hs, -⟩ := runTxn_record_writers hx (.inl fun e => ht (e.trans hf))
  exact absurd (hs.symm.trans hf) Bool.false_ne_true

/-- A transaction after which FAULT = 1 was ignored, answered, or entered the fault, and left both flags (R174, R175). -/
theorem Effect.flags_of_halted {i : Instr} (e : Effect s i t) (hf : t.fault = true) :
    t.keymask = s.keymask ∧ t.dvalid = s.dvalid := by
  cases e with
  | keyLoaded _ _ hs | blockDone _ hs | cleared hs => exact absurd (hs.symm.trans hf) Bool.false_ne_true
  | _ => exact ⟨rfl, rfl⟩

theorem runTxn_flags_of_halted {x : T43} (hx : runTxn x s = .next t) (hf : t.fault = true) :
    t.keymask = s.keymask ∧ t.dvalid = s.dvalid := by
  obtain ⟨i, -, e⟩ | ⟨d, w, -, ht⟩ := runTxn_effect hx
  · exact e.flags_of_halted hf
  · rw [ht]
    exact ⟨rfl, rfl⟩

/-! ### Runs -/

/-- A run that ends with FAULT = 0 was never halted since its last reset, so its flags tell all its events. -/
theorem Reaches.flagsTell {es post : List PortEvent} (h : Reaches es post t) (hf : t.fault = false) :
    t.FlagsTell es := by
  induction es using List.reverseRecOn generalizing post t with
  | nil =>
    rw [reaches_nil h]
    exact flagsTell_nil.congr rfl rfl
  | append_singleton es e ih =>
    obtain ⟨u, hu, ⟨rfl, rfl⟩ | ⟨x, rfl, hx⟩⟩ := h.last_cases
    · exact flagsTell_reset es _
    · have huf : u.fault = false := by
        by_contra huf
        exact absurd (hf.symm.trans (runTxn_stays_halted hx (by simpa using huf))) Bool.false_ne_true
      exact runTxn_flagsTell hx hf ((ih hu huf).congr rfl rfl)

/-- A run that ends halted has a last fault entry: after it no reset comes and the flags stay as they were before it. -/
theorem Reaches.last_fault {es post : List PortEvent} (h : Reaches es post t) (hf : t.fault = true) :
    ∃ (pre mid : List PortEvent) (x : T43) (u : State), es = pre ++ PortEvent.txn x :: mid ∧ PortEvent.reset ∉ mid ∧
      Reaches pre (.txn x :: mid ++ post) u ∧ u.fault = false ∧ causeOf (decode x) u.keymask ≠ 0 ∧
      t.keymask = u.keymask ∧ t.dvalid = u.dvalid := by
  induction es using List.reverseRecOn generalizing post t with
  | nil =>
    rw [reaches_nil h] at hf
    cases hf
  | append_singleton es e ih =>
    obtain ⟨v, hv, ⟨-, rfl⟩ | ⟨y, rfl, hy⟩⟩ := h.last_cases
    · cases hf
    · obtain ⟨hmask, hdvalid⟩ := runTxn_flags_of_halted hy hf
      cases hvf : v.fault with
      | false =>
        have hne : t.fault ≠ ({ v with pending := post } : State).fault := by simp [hf, hvf]
        obtain ⟨-, hcause⟩ := runTxn_record_writers hy (.inl hne)
        exact ⟨es, [], y, v, rfl, List.not_mem_nil, hv, hvf, hcause, hmask, hdvalid⟩
      | true =>
        obtain ⟨pre, mid, x, u, rfl, hmid, hu, huf, hcause, hm, hd⟩ := ih hv hvf
        refine ⟨pre, mid ++ [PortEvent.txn y], x, u, by simp, by simp [hmid], by simpa using hu, huf, hcause, ?_, ?_⟩
        · exact hmask.trans hm
        · exact hdvalid.trans hd

/-- The run of a whole list of events, as the obligations write it. -/
theorem reaches_all {es : List PortEvent}
    (h : Sys2Proof.core.run es.length { State.reset with pending := es } = .next t) : Reaches es [] t := by
  rwa [Reaches, List.append_nil]

end Sys2Proof.Machine

namespace Sys2Proof

open Machine

/-- Settles O36: by induction on the events, the last one first; a run that ends with FAULT = 0 ends in a reset or in a
transaction that was not ignored. -/
theorem maskAndValidTellWhatHappenedSinceClear : Obligations.MaskAndValidTellWhatHappenedSinceClear := by
  unfold Obligations.MaskAndValidTellWhatHappenedSinceClear
  intro es t h hf
  have htell := (reaches_all h).flagsTell hf
  exact ⟨htell.keymask, htell.dvalid⟩

/-- Settles O37: up to the last fault entry the run was one that ends with FAULT = 0, and nothing after it changed the
flags. -/
theorem maskAndValidTellWhatHadHappenedBeforeTheFault :
    Obligations.MaskAndValidTellWhatHadHappenedBeforeTheFault := by
  unfold Obligations.MaskAndValidTellWhatHadHappenedBeforeTheFault
  intro es t h hf
  obtain ⟨pre, post, x, u, rfl, hpost, hu, huf, hcause, hm, hd⟩ := (reaches_all h).last_fault hf
  obtain ⟨hmask, hdvalid⟩ := (hu.flagsTell huf).congr hm hd
  rw [List.append_nil] at hu
  exact ⟨pre, post, x, u, rfl, hpost, hu, huf, hcause, hmask, hdvalid⟩

end Sys2Proof
end

section
/-! PROOFS. Bytes and words: the packing is big-endian (R42, R11, R14, R15, R16). -/

namespace Sys2Proof

/-- Element j of be32 is the j-th byte from the top. -/
theorem be32_get (w : Word) (j : Fin 4) : (be32 w).get j = w.extractLsb' (24 - 8 * j.val) 8 := by
  fin_cases j <;> rfl

/-- Byte 4i+j of a register group is byte j of word i. -/
theorem Quad.toBlk_byte_mk (q : Quad) (i j : Fin 4) :
    q.toBlk.byte ⟨4 * i.val + j.val, by omega⟩ = (q.get i).extractLsb' (24 - 8 * j.val) 8 := by
  rw [Blk.byte_mk, Quad.toBlk, Four.get_map, be32_get]

/-- Two bit vectors put together weigh the high one by the width of the low one. -/
theorem toNat_append_eq_add {n m : Nat} (x : BitVec n) (y : BitVec m) :
    (x ++ y).toNat = x.toNat * 2 ^ m + y.toNat := by
  rw [BitVec.toNat_append, ← Nat.shiftLeft_add_eq_or_of_lt y.isLt, Nat.shiftLeft_eq]

theorem wordBe_toNat (b : Col) :
    (wordBe b).toNat = b.x0.toNat * 2 ^ 24 + b.x1.toNat * 2 ^ 16 + b.x2.toNat * 2 ^ 8 + b.x3.toNat := by
  rw [wordBe, toNat_append_eq_add, toNat_append_eq_add, toNat_append_eq_add]
  ring

/-- Settles O41: be32 cuts a word into its bytes from the top, and word_be weighs them as they are put together. -/
theorem packingIsBigEndian : Obligations.PackingIsBigEndian := by
  unfold Obligations.PackingIsBigEndian
  refine ⟨fun q n i j hn => ?_, wordBe_toNat⟩
  have hbyte : n = ⟨4 * i.val + j.val, by omega⟩ := Fin.ext hn
  rw [hbyte]
  exact q.toBlk_byte_mk i j

end Sys2Proof
end

section
/-! PROOFS. A step runs the instruction its transaction word stands for (R46, R49, R61). -/

namespace Sys2Proof

/-- The decoder reads every instruction back from its own word (R60, R61, R65). -/
theorem decode_encode (i : Instr) : decode (encode i) = .ok i := by
  cases i with
  | wrKey n v => exact Laws.ReadsBack.wrKey n v
  | wrNonce n v => exact Laws.ReadsBack.wrNonce n v
  | rdNonce n => exact Laws.ReadsBack.rdNonce n
  | wrDin n v => exact Laws.ReadsBack.wrDin n v
  | rdDin n => exact Laws.ReadsBack.rdDin n
  | rdDout n => exact Laws.ReadsBack.rdDout n
  | wrGo rsvd len => exact Laws.ReadsBack.wrGo rsvd len
  | wrCtrl rsvd clr => exact Laws.ReadsBack.wrCtrl rsvd clr
  | wrCrcData rsvd byte => exact Laws.ReadsBack.wrCrcData rsvd byte
  | rdCrcAcc => exact Laws.ReadsBack.rdCrcAcc
  | rdCrcResult => exact Laws.ReadsBack.rdCrcResult
  | wrCrcCtrl rsvd init => exact Laws.ReadsBack.wrCrcCtrl rsvd init
  | rdStatus => exact Laws.ReadsBack.rdStatus
  | rdCrcTable idx => exact Laws.ReadsBack.rdCrcTable idx
  | illegalRdKey n => exact Laws.ReadsBack.illegalRdKey n
  | illegalWrDout n => exact Laws.ReadsBack.illegalWrDout n
  | illegalRdGo => exact Laws.ReadsBack.illegalRdGo
  | illegalRdCtrl => exact Laws.ReadsBack.illegalRdCtrl
  | illegalRdCrcData => exact Laws.ReadsBack.illegalRdCrcData
  | illegalWrCrcAcc => exact Laws.ReadsBack.illegalWrCrcAcc
  | illegalWrCrcResult => exact Laws.ReadsBack.illegalWrCrcResult
  | illegalRdCrcCtrl => exact Laws.ReadsBack.illegalRdCrcCtrl
  | illegalWrStatus => exact Laws.ReadsBack.illegalWrStatus
  | illegalWrCrcTable idx => exact Laws.ReadsBack.illegalWrCrcTable idx

end Sys2Proof

namespace Sys2Proof.Machine

variable {s t : State}

/-- A word that decodes runs as its instruction. -/
theorem runTxn_of_decode {x : T43} {i : Instr} (h : decode x = .ok i) (s : State) : runTxn x s = exec i s := by
  rw [runTxn, h]

theorem step_of_decode {x : T43} {i : Instr} {rest : List PortEvent} (hp : s.pending = .txn x :: rest)
    (hd : decode x = .ok i) : step s = exec i { s with pending := rest } :=
  (step_txn hp).trans (runTxn_of_decode hd _)

/-- A transaction word given as a number of 48 bits is presented whole. -/
theorem withFetchWord_toNat_pending (x : T43) (s : State) :
    (s.withFetchWord 48 x.toNat).pending = .txn x :: s.pending := by
  have hx : x.toNat % 2 ^ 48 = x.toNat := Nat.mod_eq_of_lt (x.isLt.trans (by decide))
  rw [State.withFetchWord, hx, BitVec.ofNat_toNat, BitVec.setWidth_eq]

end Sys2Proof.Machine

namespace Sys2Proof

open Machine

/-- Settles O20: the step takes the word off the list and runs it; a word made by the encoder decodes to the instruction
it was made from. -/
theorem stepRunsTheDecodedTransaction : Obligations.StepRunsTheDecodedTransaction := by
  unfold Obligations.StepRunsTheDecodedTransaction
  refine ⟨fun x rest s hp => step_txn hp, fun x i rest s hp hd => step_of_decode hp hd, fun i s => ?_⟩
  exact step_of_decode (withFetchWord_toNat_pending (encode i) s) (decode_encode i)

end Sys2Proof
end

section
/-! PROOFS. Which host accesses are transactions (R26, R45, R54, R55). -/

namespace Sys2Proof

/-- A whole word at word index w of the window is the transaction at w. -/
theorem hostAccessAt_word (base : Nat) (dir : Bool) (w : Widx) (v : Word) :
    hostAccessAt base dir (base + 4 * w.toNat) 4 v = some (T43.pack dir w v) := by
  have hindex : (base + 4 * w.toNat - base) / 4 = w.toNat := by omega
  have haligned : (base + 4 * w.toNat - base) % 4 = 0 := by omega
  have hin : w.toNat < Config.windowWords := w.isLt
  rw [hostAccessAt, if_pos ⟨rfl, by omega, haligned, hindex.symm ▸ hin⟩, hindex, BitVec.ofNat_toNat,
    BitVec.setWidth_eq]

/-- Of another width, outside the window, or off a word boundary: no transaction. -/
theorem hostAccessAt_eq_none {base addr bytes : Nat} (dir : Bool) (v : Word)
    (h : bytes ≠ 4 ∨ addr < base ∨ base + 4096 ≤ addr ∨ (addr - base) % 4 ≠ 0) :
    hostAccessAt base dir addr bytes v = none := by
  have hsize : Config.windowWords = 1024 := rfl
  exact if_neg (by omega)

/-- Settles O28: the window is 1024 words of 4 bytes from its base on, one per word index. -/
theorem onlyWholeWordsAreTransactions : Obligations.OnlyWholeWordsAreTransactions := by
  unfold Obligations.OnlyWholeWordsAreTransactions
  refine ⟨fun dir addr bytes v => rfl, fun base dir v => ⟨fun w => hostAccessAt_word base dir w v, ?_⟩⟩
  exact fun addr bytes h => hostAccessAt_eq_none dir v h

end Sys2Proof
end

section
/-! PROOFS. Legal reads without effect and writes that repeat (R47). -/

namespace Sys2Proof.Machine

variable {s t : State}

/-- The only effect a legal read can have is that it answers. -/
theorem Effect.of_legal_read {i : Instr} (e : Effect s i t) (hw : i.isWrite = false) (hl : i.isIllegal = false) :
    ∃ v, t = s.respond v := by
  cases e with
  | answered v => exact ⟨v, rfl⟩
  | ignored h | badWritten h => exact absurd (hw.symm.trans h) Bool.false_ne_true
  | badReadRunning _ h | badReadHalted _ h => exact absurd (hl.symm.trans h) Bool.false_ne_true
  | _ => exact absurd (hw.symm.trans (T43.dir_pack ..)) Bool.false_ne_true

theorem exec_legal_read {i : Instr} (s : State) (hw : i.isWrite = false) (hl : i.isIllegal = false) :
    ∃ v, exec i s = .next (s.respond v) := by
  obtain ⟨t, ht⟩ := exec_answers i s
  obtain ⟨v, rfl⟩ := (exec_effect ht).of_legal_read hw hl
  exact ⟨v, ht⟩

/-- A write whose effect is idempotent is idempotent itself: ignored both times, or the second time without effect. -/
theorem writeTxn_repeats {f : State → State} (s : State) (hf : f (f s) = f s) :
    ∃ t, writeTxn f s = .next t ∧ writeTxn f t = .next t := by
  cases hs : s.fault with
  | true => exact ⟨s, writeTxn_halted f hs, writeTxn_halted f hs⟩
  | false => exact ⟨f s, writeTxn_running f hs, by rw [writeTxn, hf, ite_self]⟩

@[simp] theorem maskWith_maskWith (m : BitVec 4) (i : Fin 4) : maskWith (maskWith m i) i = maskWith m i := by
  rw [maskWith, maskWith, BitVec.or_assoc, BitVec.or_self]

theorem loadKey_loadKey (i : Fin 4) (v : Word) (s : State) : (s.loadKey i v).loadKey i v = s.loadKey i v := by
  simp [State.loadKey]

theorem loadNonce_loadNonce (i : Fin 4) (v : Word) (s : State) :
    (s.loadNonce i v).loadNonce i v = s.loadNonce i v := by
  simp [State.loadNonce]

theorem loadDin_loadDin (i : Fin 4) (v : Word) (s : State) : (s.loadDin i v).loadDin i v = s.loadDin i v := by
  simp [State.loadDin]

theorem ctrl_ctrl (clr : Bool) (s : State) : (s.ctrl 0 clr).ctrl 0 clr = s.ctrl 0 clr := by
  cases clr <;> rfl

theorem crcCtrl_crcCtrl (init : Bool) (s : State) : (s.crcCtrl 0 init).crcCtrl 0 init = s.crcCtrl 0 init := by
  cases init <;> rfl

end Sys2Proof.Machine

namespace Sys2Proof

open Machine

/-- Settles O32: a legal read only answers; each of the five writes has an effect that is idempotent. -/
theorem readsHaveNoEffectAndTheseWritesRepeat : Obligations.ReadsHaveNoEffectAndTheseWritesRepeat := by
  unfold Obligations.ReadsHaveNoEffectAndTheseWritesRepeat
  refine ⟨fun i s hw hl => exec_legal_read s hw hl, fun n v b s => ⟨?_, ?_, ?_, ?_, ?_⟩⟩
  · exact writeTxn_repeats s (loadKey_loadKey n v s)
  · exact writeTxn_repeats s (loadNonce_loadNonce n v s)
  · exact writeTxn_repeats s (loadDin_loadDin n v s)
  · exact writeTxn_repeats s (ctrl_ctrl b s)
  · exact writeTxn_repeats s (crcCtrl_crcCtrl b s)

end Sys2Proof
end

section
/-! PROOFS. The operation map (R61, R65): a row is a direction and a group of registers that share a first index, and
its match and mask tell exactly these two. -/

namespace Sys2Proof

/-! ### The rows as accesses to groups of registers -/

/-- The first register of the group a register belongs to: the registers of one group share their rows of the map. -/
def Reg.first : Reg → Reg
  | .key _ => .key 0
  | .nonce _ => .nonce 0
  | .din _ => .din 0
  | .dout _ => .dout 0
  | .go => .go
  | .ctrl => .ctrl
  | .crcData => .crcData
  | .crcAcc => .crcAcc
  | .crcResult => .crcResult
  | .crcCtrl => .crcCtrl
  | .status => .status
  | .crcTable _ => .crcTable 0

/-- The bits of the word index that tell a group: all but the operand's (R62). -/
def Reg.indexMask : Reg → Widx
  | .key _ | .nonce _ | .din _ | .dout _ => 0x3FC
  | .go | .ctrl | .crcData | .crcAcc | .crcResult | .crcCtrl | .status => 0x3FF
  | .crcTable _ => 0x300

/-- The mnemonic of an access to a register. -/
def Reg.mnemonic (dir : Bool) (r : Reg) : String := (if dir then decodeWrite 0 r else decodeRead r).mnemonic

/-- The row of the map for an access to a register's group: its match is the group's first index. -/
def Reg.row (dir : Bool) (r : Reg) : OpRow :=
  ⟨r.mnemonic dir, T43.pack dir r.first.widx 0, T43.pack true r.indexMask 0⟩

/-- The accesses the rows are about, in the order of the map, with the check that each row the spec lists is the row of
its access, match and mask included. -/
def rowAccesses : { l : List (Bool × Reg) // legalRows ++ wrongDirectionRows = l.map fun a => a.2.row a.1 } :=
  ⟨[(true, .key 0), (true, .nonce 0), (false, .nonce 0), (true, .din 0), (false, .din 0), (false, .dout 0),
    (true, .go), (true, .ctrl), (true, .crcData), (false, .crcAcc), (false, .crcResult), (true, .crcCtrl),
    (false, .status), (false, .crcTable 0),
    (false, .key 0), (true, .dout 0), (false, .go), (false, .ctrl), (false, .crcData), (true, .crcAcc),
    (true, .crcResult), (false, .crcCtrl), (true, .status), (true, .crcTable 0)], by decide +kernel⟩

/-! ### Match and mask on the fields of a word -/

theorem T43.pack_and_pack (d d' : Bool) (w w' : Widx) (v v' : Word) :
    T43.pack d w v &&& T43.pack d' w' v' = T43.pack (d && d') (w &&& w') (v &&& v') := by
  refine BitVec.and_append.trans ?_
  rw [T43.pack, BitVec.and_append, BitVec.ofBool_and_ofBool]

/-- A mask over the direction and part of the index leaves just these. -/
theorem T43.and_pack_mask (x : T43) (m : Widx) : x &&& T43.pack true m 0 = T43.pack x.dir (x.widx &&& m) 0 := by
  conv_lhs => rw [← x.pack_fields]
  simp [T43.pack_and_pack]

theorem T43.pack_zero_inj {d d' : Bool} {w w' : Widx} : T43.pack d w 0 = T43.pack d' w' 0 ↔ d = d' ∧ w = w' := by
  constructor
  · intro h
    exact ⟨by simpa using congrArg T43.dir h, by simpa using congrArg T43.widx h⟩
  · rintro ⟨rfl, rfl⟩
    rfl

/-! ### Groups of registers -/

theorem Reg.indexMask_first (r : Reg) : r.first.indexMask = r.indexMask := by
  cases r <;> rfl

/-- The index of a CRC table entry is the table's page above the eight bits of the entry (R26). -/
theorem Reg.crcTable_widx (idx : Byte) : (Reg.crcTable idx).widx = 0x1#2 ++ idx := by
  refine BitVec.eq_of_toNat_eq ?_
  have hidx := idx.isLt
  rw [toNat_append_eq_add, Reg.widx, BitVec.toNat_ofNat, BitVec.toNat_ofNat]
  omega

theorem Reg.widx_and_indexMask (r : Reg) : r.widx &&& r.indexMask = r.first.widx := by
  cases r with
  | key i | nonce i | din i | dout i => revert i; decide
  | crcTable idx =>
    rw [Reg.crcTable_widx]
    refine (BitVec.and_append (x₂ := 0x3#2) (y₂ := 0#8)).trans ?_
    rw [BitVec.and_zero]
    rfl
  | _ => rfl

/-- An index whose upper eight bits are those of a group of four is in the group. -/
theorem Widx.eq_of_and_group {w : Widx} {g : BitVec 8} (h : w &&& 0x3FC = g ++ 0#2) :
    w = BitVec.ofNat 10 (4 * g.toNat + w.quarter.val) := by
  refine Widx.eq_of_group ?_
  rw [← extract_high_append g 0#2, ← h, BitVec.extractLsb'_and]
  exact BitVec.and_allOnes.symm

/-- An index whose upper two bits are those of a page of 256 is in the page. -/
theorem Widx.eq_of_and_page {w : Widx} {p : BitVec 2} (h : w &&& 0x300 = p ++ 0#8) :
    w = BitVec.ofNat 10 (256 * p.toNat + w.entry.toNat) := by
  refine Widx.eq_of_page ?_
  rw [← extract_high_append p 0#8, ← h, BitVec.extractLsb'_and]
  exact BitVec.and_allOnes.symm

/-- An index that meets the mask of a register's group is the index of a register of the group. -/
theorem Reg.exists_of_and_indexMask {w : Widx} {r : Reg} (h : w &&& r.indexMask = r.first.widx) :
    ∃ r' : Reg, w = r'.widx ∧ r'.first = r.first := by
  cases r with
  | key => exact ⟨.key w.quarter, Widx.eq_of_and_group (g := 0x00) h, rfl⟩
  | nonce => exact ⟨.nonce w.quarter, Widx.eq_of_and_group (g := 0x01) h, rfl⟩
  | din => exact ⟨.din w.quarter, Widx.eq_of_and_group (g := 0x02) h, rfl⟩
  | dout => exact ⟨.dout w.quarter, Widx.eq_of_and_group (g := 0x03) h, rfl⟩
  | crcTable => exact ⟨.crcTable w.entry, Widx.eq_of_and_page (p := 0x1) h, rfl⟩
  | _ => exact ⟨_, BitVec.and_allOnes.symm.trans h, rfl⟩

theorem Reg.and_indexMask_iff (w : Widx) (r : Reg) :
    w &&& r.indexMask = r.first.widx ↔ ∃ r', regAt w = some r' ∧ r'.first = r.first := by
  simp only [regAt_eq_some_iff]
  constructor
  · exact Reg.exists_of_and_indexMask
  · rintro ⟨r', rfl, hr⟩
    rw [← r.indexMask_first, ← hr, r'.indexMask_first, r'.widx_and_indexMask]

/-! ### A mnemonic tells the direction and the group -/

/-- The first register of each group. -/
def Reg.firsts : List Reg :=
  [.key 0, .nonce 0, .din 0, .dout 0, .go, .ctrl, .crcData, .crcAcc, .crcResult, .crcCtrl, .status, .crcTable 0]

/-- The letters of a register in a mnemonic. -/
def Reg.letters : Reg → List Char
  | .key _ => ['K', 'E', 'Y']
  | .nonce _ => ['N', 'O', 'N', 'C', 'E']
  | .din _ => ['D', 'I', 'N']
  | .dout _ => ['D', 'O', 'U', 'T']
  | .go => ['G', 'O']
  | .ctrl => ['C', 'T', 'R', 'L']
  | .crcData => ['C', 'R', 'C', '_', 'D', 'A', 'T', 'A']
  | .crcAcc => ['C', 'R', 'C', '_', 'A', 'C', 'C']
  | .crcResult => ['C', 'R', 'C', '_', 'R', 'E', 'S', 'U', 'L', 'T']
  | .crcCtrl => ['C', 'R', 'C', '_', 'C', 'T', 'R', 'L']
  | .status => ['S', 'T', 'A', 'T', 'U', 'S']
  | .crcTable _ => ['C', 'R', 'C', '_', 'T', 'A', 'B', 'L', 'E']

/-- The letters of a direction. -/
def directionLetters (dir : Bool) : List Char := if dir then ['W', 'R', '.'] else ['R', 'D', '.']

/-- A mnemonic put together from the letters of its register, its direction, and whether the access is legal. -/
def accessLetters (legal dir : Bool) (l : List Char) : List Char :=
  if legal then directionLetters dir ++ l
  else ['I', 'L', 'L', 'E', 'G', 'A', 'L', '.'] ++ (directionLetters dir ++ l)

theorem Reg.mnemonic_eq_letters (dir : Bool) (r : Reg) :
    r.mnemonic dir = String.ofList (accessLetters (r.access.allows dir) dir r.letters) := by
  cases dir <;> cases r <;> rfl

theorem accessLetters_inj {legal legal' dir dir' : Bool} {l l' : List Char}
    (h : accessLetters legal dir l = accessLetters legal' dir' l') : dir = dir' ∧ l = l' := by
  have hdir (h : directionLetters dir ++ l = directionLetters dir' ++ l') : dir = dir' ∧ l = l' := by
    revert h
    cases dir <;> cases dir' <;> simp [directionLetters]
  match legal, legal' with
  | true, true => exact hdir h
  | false, false => exact hdir (List.append_cancel_left h)
  | true, false => cases dir <;> simp [accessLetters, directionLetters] at h
  | false, true => cases dir' <;> simp [accessLetters, directionLetters] at h

/-- The letters tell the group: the first register with the same letters is the group's own. -/
theorem Reg.first_eq_of_letters_eq {r r' : Reg} (h : r.letters = r'.letters) : r.first = r'.first := by
  have hfind (r : Reg) : (Reg.firsts.find? fun f => f.letters == r.letters) = some r.first := by
    cases r <;> rfl
  rw [← Option.some_inj, ← hfind, h, hfind]

theorem Reg.mnemonic_first (dir : Bool) (r : Reg) : r.first.mnemonic dir = r.mnemonic dir := by
  cases dir <;> cases r <;> rfl

theorem Reg.mnemonic_eq_iff {d d' : Bool} {r r' : Reg} :
    r.mnemonic d = r'.mnemonic d' ↔ d = d' ∧ r.first = r'.first := by
  constructor
  · intro h
    rw [r.mnemonic_eq_letters, r'.mnemonic_eq_letters, String.ofList_inj] at h
    obtain ⟨hd, hletters⟩ := accessLetters_inj h
    exact ⟨hd, Reg.first_eq_of_letters_eq hletters⟩
  · rintro ⟨rfl, h⟩
    rw [← r.mnemonic_first, h, r'.mnemonic_first]

/-! ### The map and the decoder -/

/-- A word decodes exactly when there is a register at its index, to that register's row in its direction. -/
theorem decode_eq_ok_iff (x : T43) (i : Instr) :
    decode x = .ok i ↔
      ∃ r, regAt x.widx = some r ∧ (if x.dir then decodeWrite x.wdata r else decodeRead r) = i := by
  cases hr : regAt x.widx <;> simp [decode, hr]

/-- A word meets the match and mask of a row exactly when it accesses a register of the group in the row's direction. -/
theorem Reg.and_row_mask_iff (x : T43) (dir : Bool) (r : Reg) :
    x &&& (r.row dir).mask = (r.row dir).value ↔
      x.dir = dir ∧ ∃ r', regAt x.widx = some r' ∧ r'.first = r.first := by
  rw [Reg.row, T43.and_pack_mask, T43.pack_zero_inj, Reg.and_indexMask_iff]

/-- The mnemonic a word decodes to depends on its direction and register alone. -/
theorem decode_mnemonic_iff (x : T43) (m : String) :
    (∃ i, decode x = .ok i ∧ i.mnemonic = m) ↔ ∃ r, regAt x.widx = some r ∧ r.mnemonic x.dir = m := by
  have hdata (r : Reg) :
      (if x.dir then decodeWrite x.wdata r else decodeRead r).mnemonic = r.mnemonic x.dir := by
    cases x.dir <;> cases r <;> rfl
  simp only [decode_eq_ok_iff, ← hdata]
  constructor
  · rintro ⟨_, ⟨r, hr, rfl⟩, hm⟩
    exact ⟨r, hr, hm⟩
  · rintro ⟨r, hr, hm⟩
    exact ⟨_, ⟨r, hr, rfl⟩, hm⟩

/-- Settles O24: a row is met by the words that access its group in its direction, and these are the words that decode
to its mnemonic. -/
theorem decodeFollowsTheOperationMap : Obligations.DecodeFollowsTheOperationMap := by
  unfold Obligations.DecodeFollowsTheOperationMap
  intro x R hR
  rw [rowAccesses.2] at hR
  obtain ⟨⟨dir, r⟩, -, rfl⟩ := List.mem_map.mp hR
  calc x &&& (r.row dir).mask = (r.row dir).value
      ↔ x.dir = dir ∧ ∃ r', regAt x.widx = some r' ∧ r'.first = r.first := Reg.and_row_mask_iff x dir r
    _ ↔ ∃ r', regAt x.widx = some r' ∧ r'.mnemonic x.dir = r.mnemonic dir := by
      simp only [Reg.mnemonic_eq_iff, and_left_comm, exists_and_left]
    _ ↔ ∃ i, decode x = .ok i ∧ i.mnemonic = r.mnemonic dir := (decode_mnemonic_iff x _).symm

end Sys2Proof
end

section
/-! PROOFS. Decoder and encoder: each reads back what the other gives, up to the data bits that no row reads (R60, R61,
R62, R64, R65). -/

namespace Sys2Proof

/-- Settles O22: instruction by instruction, the word is packed at its register's index and its operands are cut out
where they were put in. -/
theorem decodeReadsBackEveryEncoding : Obligations.DecodeReadsBackEveryEncoding := by
  unfold Obligations.DecodeReadsBackEveryEncoding
  exact decode_encode

/-- Settles O27: nine of the words are the encodings of their instructions, and nothing is at the index of the tenth. -/
theorem writtenOutWordsDecode : Obligations.WrittenOutWordsDecode := by
  unfold Obligations.WrittenOutWordsDecode
  exact ⟨decode_encode (.wrKey 2 0x09CF4F3C), decode_encode (.wrNonce 3 0xFFFFFFFF), decode_encode (.rdDout 1),
    decode_encode (.wrGo 0 5), decode_encode (.wrCtrl 1 true), decode_encode (.wrCrcData 1 0x39),
    decode_encode (.rdCrcTable 0xFF), decode_encode .rdStatus, decode_encode .illegalRdGo,
    decode_pack_reserved (w := 0x3FF) rfl true 5⟩

/-! ### What a word that decodes is encoded to again -/

theorem decodeRead_ignoresData (r : Reg) : (decodeRead r).ignoresData = true := by
  cases r <;> rfl

theorem encode_decodeRead (r : Reg) : encode (decodeRead r) = T43.pack false r.widx 0 := by
  cases r <;> rfl

/-- A flag at bit 0 and the 31 reserved bits above it are the whole data word (R64). -/
theorem extract_append_bit_zero (d : Word) : d.extractLsb' 1 31 ++ BitVec.ofBool (d.getLsbD 0) = d := by
  have hbit : BitVec.ofBool (d.getLsbD 0) = d.extractLsb' 0 1 := by
    rw [← BitVec.setWidth_one, BitVec.setWidth_eq_extractLsb' (by decide)]
  rw [hbit]
  exact BitVec.extractLsb'_append_extractLsb' (w := 31)

/-- A write is encoded again with its data word, or with 0 where its row ignores the data. -/
theorem encode_decodeWrite (d : Word) (r : Reg) :
    encode (decodeWrite d r) = T43.pack true r.widx (if (decodeWrite d r).ignoresData then 0 else d) := by
  cases r with
  | go => exact congrArg (T43.pack true _) (BitVec.extractLsb'_append_extractLsb' (w := 27))
  | crcData => exact congrArg (T43.pack true _) (BitVec.extractLsb'_append_extractLsb' (w := 24))
  | ctrl | crcCtrl => exact congrArg (T43.pack true _) (extract_append_bit_zero d)
  | _ => rfl

/-- Settles O23: a word that decodes is packed at its register's index; a read is encoded again without its data, a
write with the data its row keeps. -/
theorem decodingKeepsEveryBitItsRowReads : Obligations.DecodingKeepsEveryBitItsRowReads := by
  unfold Obligations.DecodingKeepsEveryBitItsRowReads
  intro x i hi
  obtain ⟨r, hr, rfl⟩ := (decode_eq_ok_iff x i).mp hi
  have hw : x.widx = r.widx := eq_widx_of_regAt hr
  cases hd : x.dir with
  | false => rw [if_neg Bool.false_ne_true, encode_decodeRead, decodeRead_ignoresData, if_pos rfl, hw]
  | true =>
    have hx : x = T43.pack true r.widx x.wdata := by rw [← hd, ← hw, x.pack_fields]
    rw [if_pos rfl, encode_decodeWrite, hw]
    split
    · rfl
    · exact hx.symm

end Sys2Proof
end

section
/-! PROOFS. The reserved word indices: the decoder rejects them, and a step answers them with BADACC (R48, R63). -/

namespace Sys2Proof

theorem reservedIndex_eq_false_iff (w : Widx) : reservedIndex w = false ↔
    w.toNat < 0x012 ∨ (0x020 ≤ w.toNat ∧ w.toNat < 0x024) ∨ (0x030 ≤ w.toNat ∧ w.toNat < 0x031) ∨
      (0x100 ≤ w.toNat ∧ w.toNat < 0x200) := by
  have hw := w.isLt
  simp only [reservedIndex, Bool.or_eq_false_iff, Bool.and_eq_false_iff, decide_eq_false_iff_not]
  omega

/-- No register is at a reserved index. -/
theorem Reg.reservedIndex_widx (r : Reg) : reservedIndex r.widx = false := by
  cases r with
  | key i | nonce i | din i | dout i => revert i; decide
  | crcTable idx =>
    have hidx := idx.isLt
    have hn : (Reg.crcTable idx).widx.toNat = 0x100 + idx.toNat := Nat.mod_eq_of_lt (by omega)
    rw [reservedIndex_eq_false_iff, hn]
    omega
  | _ => rfl

/-- Below the CRC table's page the map has a register at every index that is not reserved. -/
theorem regAt_isSome_below_table : ∀ n < 0x031, reservedIndex (BitVec.ofNat 10 n) = false →
    (regAt (BitVec.ofNat 10 n)).isSome := by decide

/-- The map has a register at every index that is not reserved: below the CRC table's page one by one, in it the
entry. -/
theorem regAt_isSome_of_not_reserved {w : Widx} (h : reservedIndex w = false) : (regAt w).isSome := by
  by_cases hlow : w.toNat < 0x031
  · have hw : BitVec.ofNat 10 w.toNat = w := by rw [BitVec.ofNat_toNat, BitVec.setWidth_eq]
    rw [← hw] at h ⊢
    exact regAt_isSome_below_table _ hlow h
  · have hpage : w.extractLsb' 8 2 = 0x1 := by
      rw [reservedIndex_eq_false_iff] at h
      refine BitVec.eq_of_toNat_eq ?_
      rw [BitVec.extractLsb'_toNat, Nat.shiftRight_eq_div_pow]
      exact (by omega : w.toNat / 2 ^ 8 % 2 ^ 2 = 1)
    have hentry : w = (Reg.crcTable w.entry).widx := Widx.eq_of_page hpage
    rw [hentry, regAt_widx]
    rfl

theorem regAt_eq_none_iff (w : Widx) : regAt w = none ↔ reservedIndex w = true := by
  cases hr : regAt w with
  | some r => simp [eq_widx_of_regAt hr, r.reservedIndex_widx]
  | none =>
    refine iff_of_true rfl (by_contra fun h => ?_)
    have hsome := regAt_isSome_of_not_reserved (eq_false_of_ne_true h)
    rw [hr] at hsome
    cases hsome

theorem decode_eq_error_iff (x : T43) (e : DecodeError) :
    decode x = .error e ↔ e = .reserved x.dir x.widx ∧ regAt x.widx = none := by
  cases hr : regAt x.widx with
  | none => simpa [decode, hr] using eq_comm
  | some r => simp [decode, hr]

/-- The mapped indices are the four intervals between the reserved ones (R40). -/
theorem mappedIndices_eq_union :
    ((List.range 1024).filter fun n => !reservedIndex (BitVec.ofNat 10 n)).toFinset =
      Finset.Ico 0x000 0x012 ∪
        (Finset.Ico 0x020 0x024 ∪ (Finset.Ico 0x030 0x031 ∪ Finset.Ico 0x100 0x200)) := by
  ext n
  have hn : n < 1024 → (BitVec.ofNat 10 n).toNat = n := Nat.mod_eq_of_lt
  simp only [List.mem_toFinset, List.mem_filter, List.mem_range, Bool.not_eq_true', reservedIndex_eq_false_iff,
    Finset.mem_union, Finset.mem_Ico, Nat.zero_le, true_and]
  constructor
  · rintro ⟨hlt, hmap⟩
    rwa [hn hlt] at hmap
  · intro hmap
    have hlt : n < 1024 := by omega
    exact ⟨hlt, by rwa [hn hlt]⟩

/-- An interval below everything else in a union counts on its own. -/
theorem card_Ico_union {a b : Nat} {t : Finset Nat} (h : ∀ i ∈ t, b ≤ i) :
    (Finset.Ico a b ∪ t).card = b - a + t.card := by
  rw [Finset.card_union_of_disjoint, Nat.card_Ico]
  refine Finset.disjoint_left.mpr fun i hi hit => ?_
  exact absurd (Finset.mem_Ico.mp hi).2 (Nat.not_lt.mpr (h i hit))

/-- Settles O25: what has no register is rejected, the indices without a register are the reserved ones, and the four
intervals between these have 18, 4, 1 and 256 indices. -/
theorem decodeRejectsExactlyTheReservedIndices : Obligations.DecodeRejectsExactlyTheReservedIndices := by
  unfold Obligations.DecodeRejectsExactlyTheReservedIndices
  refine ⟨fun x e => ?_, ?_⟩
  · rw [decode_eq_error_iff, regAt_eq_none_iff]
  · rw [← List.toFinset_card_of_nodup (List.nodup_range.filter _), mappedIndices_eq_union, card_Ico_union,
      card_Ico_union, card_Ico_union, Nat.card_Ico]
    all_goals
      intro i hi
      simp only [Finset.mem_union, Finset.mem_Ico] at hi
      omega

end Sys2Proof

namespace Sys2Proof.Machine

variable {s : State}

/-- A word that is rejected runs as an access to a reserved index. -/
theorem runTxn_of_error {x : T43} {e : DecodeError} (h : decode x = .error e) (s : State) :
    runTxn x s = takeReserved e s := by
  rw [runTxn, h]

/-- With FAULT = 0 an access to a reserved index writes the fault record, and a read among them returns 0 (R63). -/
theorem takeReserved_running (d : Bool) (w : Widx) (h : s.fault = false) :
    takeReserved (.reserved d w) s = .next { s with
      fault := true, fcause := 3, fdir := d, faddr := w,
      responses := if d then s.responses else s.responses ++ [0] } := by
  cases d with
  | true => exact badWrite_running w h
  | false => exact badRead_running w h

end Sys2Proof.Machine

namespace Sys2Proof

open Machine

/-- Settles O12: the step takes the word off the list, the decoder rejects it, and BADACC is raised. -/
theorem reservedIndexRaisesBadacc : Obligations.ReservedIndexRaisesBadacc := by
  unfold Obligations.ReservedIndexRaisesBadacc
  intro x rest s hp hf hx
  have hres : reservedIndex x.widx = true := by simpa [reservedIndex, or_assoc] using hx
  have hd : decode x = .error (.reserved x.dir x.widx) :=
    (decode_eq_error_iff x _).mpr ⟨rfl, (regAt_eq_none_iff x.widx).mpr hres⟩
  rw [step_txn hp, runTxn_of_error hd]
  exact takeReserved_running x.dir x.widx hf

end Sys2Proof
end

section
/-! PROOFS. Which faults a mapped index can raise: BADACC for the wrong direction (R65), and for a well-formed
transaction KEYLEN alone (R62, R64, R171). -/

namespace Sys2Proof

open Machine
open Laws.ReadsBack (at_register)

/-- Settles O11: each of the ten words is packed at a register's own index, and its row raises BADACC there. -/
theorem wrongDirectionRaisesBadacc : Obligations.WrongDirectionRaisesBadacc := by
  unfold Obligations.WrongDirectionRaisesBadacc
  exact ⟨fun i idx d =>
      ⟨at_register false (.key i) d, at_register true (.dout i) d, at_register false .go d, at_register false .ctrl d,
        at_register false .crcData d, at_register true .crcAcc d, at_register true .crcResult d,
        at_register false .crcCtrl d, at_register true .status d, at_register true (.crcTable idx) d⟩,
    fun i idx s hf =>
      ⟨badRead_running (Reg.key i).widx hf, badWrite_running (Reg.dout i).widx hf, badRead_running Reg.go.widx hf,
        badRead_running Reg.ctrl.widx hf, badRead_running Reg.crcData.widx hf, badWrite_running Reg.crcAcc.widx hf,
        badWrite_running Reg.crcResult.widx hf, badRead_running Reg.crcCtrl.widx hf,
        badWrite_running Reg.status.widx hf, badWrite_running (Reg.crcTable idx).widx hf⟩⟩

end Sys2Proof

namespace Sys2Proof.Machine

variable {s t : State} {i : Instr}

/-- Of the effects that enter a fault, a well-formed instruction has only the GO without a complete key. -/
theorem Effect.of_wellFormed_fault (e : Effect s i t) (hi : i.WellFormed) (hs : s.fault = false)
    (ht : t.fault = true) : t.fcause = 1 ∧ keyComplete s.keymask = false ∧ ∃ len, i = .wrGo 0 len := by
  have hill {p : Prop} (h : i.wellFormed = false) : p := absurd (h.symm.trans hi) Bool.false_ne_true
  cases e with
  | badKey len _ _ hk => exact ⟨rfl, hk, len, rfl⟩
  | badLength len _ hl => exact hill (by simpa [Instr.wellFormed, lenLegal] using hl)
  | badWritten _ hwf => exact hill hwf
  | badReadRunning _ h => exact hill (wellFormed_of_isIllegal h)
  | _ => exact absurd (hs.symm.trans ht) Bool.false_ne_true

end Sys2Proof.Machine

namespace Sys2Proof

open Machine

/-- Settles O16: no effect of a well-formed instruction but a GO that finds the key incomplete sets FAULT. -/
theorem wellFormedRaisesOnlyKeylen : Obligations.WellFormedRaisesOnlyKeylen := by
  unfold Obligations.WellFormedRaisesOnlyKeylen
  intro i s t hi hs hx ht
  obtain ⟨hc, hk, hgo⟩ := (exec_effect hx).of_wellFormed_fault hi hs ht
  exact ⟨hc, beq_eq_false_iff_ne.mp hk, hgo⟩

end Sys2Proof
end

section
/-! PROOFS. Runs over the words of a listing: a write at the head takes its effect, and ldkey loads the key (R68,
R69). -/

namespace Sys2Proof.Machine

variable {s : State}

/-- With FAULT = 0, a run whose next word decodes to a write has that write's effect and goes on behind it. -/
theorem run_write {x : T43} {i : Instr} {f : State → State} {rest : List PortEvent} (n : Nat)
    (hp : s.pending = .txn x :: rest) (hd : decode x = .ok i) (hi : ∀ u, exec i u = writeTxn f u)
    (hf : s.fault = false) :
    Sys2Proof.core.run (n + 1) s = Sys2Proof.core.run n (f { s with pending := rest }) := by
  refine run_succ n ?_
  rw [step_of_decode hp hd, hi]
  exact writeTxn_running f hf

/-- A line that writes KEY[i] loads the word. -/
theorem run_wrKey {i : Fin 4} {v : Word} {rest : List PortEvent} (n : Nat)
    (hp : s.pending = .txn (AsmLine.assemble (.wr (.reg (.key i)) v)) :: rest) (hf : s.fault = false) :
    Sys2Proof.core.run (n + 1) s = Sys2Proof.core.run n (State.loadKey i v { s with pending := rest }) :=
  run_write n hp (decode_encode (.wrKey i v)) (fun _ => rfl) hf

/-- The four mask bits set one after the other complete the key, whatever was loaded before (R12). -/
theorem maskWith_all : ∀ m : BitVec 4,
    maskWith (maskWith (maskWith (maskWith m 0) 1) 2) 3 = 0b1111 := by decide

/-- ldkey loads its four words and completes the key; the run goes on with what was issued behind it. -/
theorem run_ldkey {k : Quad} {rest : List PortEvent} (n : Nat)
    (hp : s.pending = (Asm.words (Asm.ldkey k)).map .txn ++ rest) (hf : s.fault = false) :
    Sys2Proof.core.run (n + 4) s =
      Sys2Proof.core.run n { s with key := k, keymask := 0b1111, pending := rest } := by
  refine .trans (run_wrKey (n + 3) hp hf) ?_
  refine .trans (run_wrKey (n + 2) rfl hf) ?_
  refine .trans (run_wrKey (n + 1) rfl hf) ?_
  refine .trans (run_wrKey n rfl hf) (congrArg (Sys2Proof.core.run n) ?_)
  exact congrArg (fun m => { s with key := k, keymask := m, pending := rest }) (maskWith_all s.keymask)

end Sys2Proof.Machine

namespace Sys2Proof

open Machine

/-- Settles O40: ldkeyb is ldkey of the words packed from its bytes. -/
theorem ldkeybLoadsTheSixteenKeyBytes : Obligations.LdkeybLoadsTheSixteenKeyBytes := by
  unfold Obligations.LdkeybLoadsTheSixteenKeyBytes
  intro b s hf hp
  have hpending : (s.issue (Asm.words (Asm.ldkeyb b))).pending =
      (Asm.words (Asm.ldkey b.toQuad)).map .txn ++ [] := by
    simp [hp, Asm.ldkeyb]
  refine ⟨{ s with key := b.toQuad, keymask := 0b1111 }, ?_, Blk.toBlk_toQuad b, rfl, rfl⟩
  rw [run_ldkey 0 hpending hf, State.issue, ← hp]
  rfl

end Sys2Proof
end

section
/-! PROOFS. The cipher unit's writes and reads, one transaction at a time (R80 to R88, R91). -/

namespace Sys2Proof

/-- Element j of word i's bytes in a register group is the j-th byte of the word from the top (R42). -/
theorem Quad.get_get_toBlk (q : Quad) (i j : Fin 4) :
    (q.toBlk.get i).get j = (q.get i).extractLsb' (24 - 8 * j.val) 8 := by
  rw [Quad.toBlk, Four.get_map, be32_get]

end Sys2Proof

namespace Sys2Proof.Machine

variable {s t : State}

/-! ### What a GO does, and what it leaves -/

theorem lenLegal_eq_true_iff (len : BitVec 5) : lenLegal len = true ↔ 1 ≤ len.toNat ∧ len.toNat ≤ 16 := by
  rw [lenLegal, Bool.and_eq_true, decide_eq_true_iff, decide_eq_true_iff]

theorem go_of_reserved {rsvd : BitVec 27} (len : BitVec 5) (s : State) (hr : rsvd ≠ 0) :
    s.go rsvd len = s.raiseFault .badacc true 0x010 := if_pos hr

theorem go_of_badLength {len : BitVec 5} (s : State) (hl : lenLegal len = false) :
    s.go 0 len = s.raiseFault .badlen true 0x010 := by
  simp [State.go, hl, Reg.widx]

theorem go_of_badKey {len : BitVec 5} (hl : lenLegal len = true) (hk : keyComplete s.keymask = false) :
    s.go 0 len = s.raiseFault .keylen true 0x010 := by
  simp [State.go, hl, hk, Reg.widx]

theorem go_of_complete {len : BitVec 5} (hl : lenLegal len = true) (hk : s.keymask = 0b1111) :
    s.go 0 len = s.processBlock len := by
  simp [State.go, hl, hk, keyComplete]

/-- A GO after which FAULT = 0 has processed a block. -/
theorem eq_processBlock_of_exec_go {len : BitVec 5} (h : exec (.wrGo 0 len) s = .next t) (ht : t.fault = false) :
    t = s.processBlock len := by
  cases exec_effect h with
  | blockDone => rfl
  | ignored _ hs => exact absurd (ht.symm.trans hs) Bool.false_ne_true
  | badLength | badKey | badWritten => cases ht
  | answered _ hw | badReadRunning hw | badReadHalted hw =>
    exact absurd (hw.symm.trans (T43.dir_pack ..)) Bool.false_ne_true

/-- No GO writes DIN, faulting or not (R15). -/
theorem din_eq_of_exec_go {rsvd : BitVec 27} {len : BitVec 5} (h : exec (.wrGo rsvd len) s = .next t) :
    t.din = s.din := by
  refine Four.ext_get fun j => by_contra fun hj => ?_
  obtain ⟨v, hv⟩ | hv := (exec_effect h).din_writers hj <;> cases hv

/-- Byte j of DOUT after a GO: DIN's byte or the filler, XOR the keystream's (R86, R87). -/
theorem processBlock_dout_byte (len : BitVec 5) (s : State) (j : Fin 16) :
    (s.processBlock len).dout.toBlk.byte j =
      (if j.val < len.toNat then s.dinBytes.byte j else 0xFF) ^^^ s.keystream.byte j := by
  rw [processBlock_dout, Blk.toBlk_toQuad, State.outBlk, Blk.byte_xor, inBlk, Blk.byte_ofBytes]
  rfl

/-- The counter goes up by one modulo 2^32 (R86 step 9). -/
theorem processBlock_counter (len : BitVec 5) (s : State) :
    (s.processBlock len).nonce.x3.toNat = (s.nonce.x3.toNat + 1) % 2 ^ 32 := BitVec.toNat_add ..

/-- DOUT reads zero while no GO has been performed, in a state the invariant admits (R17). -/
theorem State.Inv.dout_get (h : s.Inv) (hd : s.dvalid = false) (i : Fin 4) : s.dout.get i = 0 := by
  obtain ⟨-, -, hdout, -⟩ := h
  rw [hdout hd]
  fin_cases i <;> rfl

/-- CLR and INIT leave nothing but the fault record, which is zero in a running block with a coherent one (R193). -/
theorem crcRestart_clearCipher (hf : s.fault = false) (hr : s.RecordCoherent) :
    s.clearCipher.crcRestart = { State.reset with pending := s.pending, responses := s.responses } := by
  obtain ⟨hzero, -⟩ := hr
  obtain ⟨hcause, hdir, haddr⟩ := hzero hf
  exact State.ext rfl rfl rfl rfl rfl rfl rfl hf hcause hdir haddr rfl rfl

end Sys2Proof.Machine

namespace Sys2Proof

open Machine
open Laws.ReadsBack (at_register)

/-- Settles O1: the effect of the write is loadKey, which sets element i of KEY and bit i of KEYMASK. -/
theorem wrKeyLoadsItsWordAndMaskBit : Obligations.WrKeyLoadsItsWordAndMaskBit := by
  unfold Obligations.WrKeyLoadsItsWordAndMaskBit
  intro i v s hf
  refine ⟨at_register true (.key i) v, s.loadKey i v, writeTxn_running _ hf, Four.get_set_same s.key i v,
    fun j hj => Four.get_set_other s.key v hj, ?_, fun j hj => ?_, fun j => ?_, rfl⟩
  · rw [loadKey_keymask, maskWith_bit, beq_self_eq_true, Bool.or_true]
  · rw [loadKey_keymask, maskWith_bit, beq_eq_false_iff_ne.mpr hj, Bool.or_false]
  · rw [State.keyBytes, Quad.get_get_toBlk, loadKey_key, Four.get_set_same]

/-- Settles O2: the effect of the write is loadNonce; a GO that completes counts on from the word it set. -/
theorem wrNonceLoadsItsWord : Obligations.WrNonceLoadsItsWord := by
  unfold Obligations.WrNonceLoadsItsWord
  intro i v s hf
  refine ⟨at_register true (.nonce i) v, s.loadNonce i v, writeTxn_running _ hf, Four.get_set_same s.nonce i v,
    fun j hj => Four.get_set_other s.nonce v hj, rfl, ?_⟩
  rintro rfl len u hu huf
  rw [eq_processBlock_of_exec_go hu huf, processBlock_counter]
  rfl

/-- Settles O3: the effect of the write is loadDin, and no GO writes DIN. -/
theorem wrDinLoadsItsWord : Obligations.WrDinLoadsItsWord := by
  unfold Obligations.WrDinLoadsItsWord
  intro i v s hf
  refine ⟨at_register true (.din i) v, s.loadDin i v, writeTxn_running _ hf, Four.get_set_same s.din i v,
    fun j hj => Four.get_set_other s.din v hj, fun j => ?_, rfl, fun rsvd len u hu => din_eq_of_exec_go hu⟩
  rw [State.dinBytes, Quad.get_get_toBlk, loadDin_din, Four.get_set_same]

/-- Settles O4: each word is packed at its register's index, and a legal read answers its register in every state. -/
theorem cipherReadsAnswerTheirRegister : Obligations.CipherReadsAnswerTheirRegister := by
  unfold Obligations.CipherReadsAnswerTheirRegister
  intro i d s
  refine ⟨at_register false (.nonce i) d, at_register false (.din i) d, at_register false (.dout i) d, rfl, rfl, rfl,
    fun hinv hd => ?_⟩
  rw [← hinv.dout_get hd i]
  rfl

/-- Settles O5: the three tests in their order, then the block operation. -/
theorem goTestsThenProcessesOneBlock : Obligations.GoTestsThenProcessesOneBlock := by
  unfold Obligations.GoTestsThenProcessesOneBlock
  intro rsvd len s hf
  have hexec : exec (.wrGo rsvd len) s = .next (s.go rsvd len) := writeTxn_running _ hf
  refine ⟨at_register true .go, fun hr => ?_, ?_, ?_, ?_⟩
  · rw [hexec, go_of_reserved len s hr]
    rfl
  · rintro rfl hl
    rw [hexec, go_of_badLength s ((lenLegal_eq_false_iff len).mpr hl)]
    rfl
  · rintro rfl hpos hle hk
    rw [hexec, go_of_badKey ((lenLegal_eq_true_iff len).mpr ⟨hpos, hle⟩) (beq_eq_false_iff_ne.mpr hk)]
    rfl
  · rintro rfl hpos hle hk
    rw [hexec, go_of_complete ((lenLegal_eq_true_iff len).mpr ⟨hpos, hle⟩) hk]
    exact ⟨_, rfl, processBlock_dout_byte len s, processBlock_counter len s, rfl⟩

/-- Settles O6: halted the write is ignored; running it tests its reserved bits and then clears or leaves the unit. -/
theorem ctrlClearsTheCipherUnit : Obligations.CtrlClearsTheCipherUnit := by
  unfold Obligations.CtrlClearsTheCipherUnit
  refine ⟨fun rsvd clr s hf => writeTxn_halted _ hf, fun rsvd clr s hf => ?_⟩
  have hexec : exec (.wrCtrl rsvd clr) s = .next (s.ctrl rsvd clr) := writeTxn_running _ hf
  refine ⟨at_register true .ctrl, fun hr => ?_, ?_, ?_⟩
  · rw [hexec, State.ctrl, if_pos hr]
    rfl
  · rintro rfl rfl
    exact hexec
  · rintro rfl rfl
    exact hexec

/-- Settles O38: neither write faults, and together they write every element but the fault record. -/
theorem clearAndInitGiveTheResetState : Obligations.ClearAndInitGiveTheResetState := by
  unfold Obligations.ClearAndInitGiveTheResetState
  intro s hf hr
  refine ⟨s.clearCipher, writeTxn_running _ hf, ?_⟩
  rw [← crcRestart_clearCipher hf hr]
  exact writeTxn_running (s := s.clearCipher) _ hf

end Sys2Proof
end

section
/-! PROOFS. The message transform over byte sequences: padding, ENC_BLOCKS byte by byte, and decryption (R95 to R99). -/

namespace Sys2Proof

/-! ### Padding and the number of blocks -/

theorem pad_of_full {p : List Byte} (h : p.length % 16 = 0) : pad p = p := if_pos h

theorem pad_of_short {p : List Byte} (h : p.length % 16 ≠ 0) :
    pad p = p ++ List.replicate (16 - p.length % 16) 0xFF := if_neg h

/-- The padded length is the next multiple of 16: the length itself when it is one. -/
theorem length_pad (p : List Byte) : (pad p).length = (p.length + 15) / 16 * 16 := by
  by_cases h : p.length % 16 = 0
  · rw [pad_of_full h]
    omega
  · rw [pad_of_short h, List.length_append, List.length_replicate]
    omega

theorem blockCount_eq (p : List Byte) : blockCount p = (p.length + 15) / 16 := by
  rw [blockCount, length_pad]
  exact Nat.mul_div_cancel _ (by decide)

theorem length_pad_eq_blocks (p : List Byte) : (pad p).length = blockCount p * 16 := by
  rw [length_pad, blockCount_eq]

/-- Padding is the message and then fillers. -/
theorem pad_eq_append (p : List Byte) : ∃ n, pad p = p ++ List.replicate n Config.padByte := by
  by_cases h : p.length % 16 = 0
  · exact ⟨0, by rw [pad_of_full h, List.replicate_zero, List.append_nil]⟩
  · exact ⟨_, pad_of_short h⟩

/-! ### Sequences made of blocks of 16 -/

/-- Byte 16t+j of blocks put together is byte j of block t. -/
theorem getElem?_flatMap_range {f : Nat → List Byte} {n t j : Nat} (hf : ∀ t < n, (f t).length = 16) (ht : t < n)
    (hj : j < 16) : ((List.range n).flatMap f)[16 * t + j]? = (f t)[j]? := by
  induction n with
  | zero => omega
  | succ n ih =>
    have hlen : ((List.range n).flatMap f).length = 16 * n := by
      rw [List.length_flatMap, List.map_congr_left fun i hi => hf i (Nat.lt_succ_of_lt (List.mem_range.mp hi))]
      simp [Nat.mul_comm]
    rw [List.range_succ, List.flatMap_append]
    by_cases h : t < n
    · rw [List.getElem?_append_left (by omega)]
      exact ih (fun t ht => hf t (by omega)) h
    · obtain rfl : t = n := by omega
      rw [List.getElem?_append_right (by omega), hlen, Nat.add_sub_cancel_left, List.flatMap_singleton]

theorem Blk.getElem?_toBytes (b : Blk) (j : Fin 16) : b.toBytes[j.val]? = some (b.byte j) := by
  fin_cases j <;> rfl

/-! ### ENC_BLOCKS -/

theorem length_cipherBlock {n : Quad} {k : Blk} {p : List Byte} {t : Nat} (ht : t < blockCount p) :
    (cipherBlock n k (pad p) t).length = 16 := by
  have hlen := length_pad_eq_blocks p
  rw [cipherBlock, List.length_zipWith, List.length_take, List.length_drop, Blk.length_toBytes]
  omega

theorem length_encBlocks (n : Quad) (k : Blk) (p : List Byte) : (encBlocks n k p).length = (pad p).length := by
  rw [encBlocks, List.length_flatMap,
    List.map_congr_left fun t ht => length_cipherBlock (List.mem_range.mp ht), length_pad_eq_blocks]
  simp

/-- Byte j of the keystream of block t, as ENC_BLOCKS meets it. -/
theorem getElem?_cipherBlock (n : Quad) (k : Blk) (q : List Byte) (t : Nat) (j : Fin 16) :
    (cipherBlock n k q t)[j.val]? = q[16 * t + j.val]?.map (· ^^^ (keystreamAt n k t).byte j) := by
  rw [cipherBlock, List.getElem?_zipWith, List.getElem?_take_of_lt j.isLt, List.getElem?_drop, Blk.getElem?_toBytes]
  cases q[16 * t + j.val]? <;> rfl

/-- ENC_BLOCKS is the byte by byte XOR of the padded message with the keystream (R96). -/
theorem getElem?_encBlocks (n : Quad) (k : Blk) (p : List Byte) {t : Nat} (j : Fin 16) (ht : t < blockCount p) :
    (encBlocks n k p)[16 * t + j.val]? = (pad p)[16 * t + j.val]?.map (· ^^^ (keystreamAt n k t).byte j) := by
  rw [encBlocks, getElem?_flatMap_range (fun t ht => length_cipherBlock ht) ht j.isLt, getElem?_cipherBlock]

/-- The counter of block t is the start value plus t modulo 2^32, as R96 writes it. -/
theorem nonceAt_eq (n : Quad) (t : Nat) :
    nonceAt n t = ⟨n.x0, n.x1, n.x2, BitVec.ofNat 32 ((n.x3.toNat + t) % 2 ^ 32)⟩ := by
  have hx3 : n.x3 + BitVec.ofNat 32 t = BitVec.ofNat 32 ((n.x3.toNat + t) % 2 ^ 32) := by
    refine BitVec.eq_of_toNat_eq ?_
    simp
  rw [nonceAt, hx3]

/-- Settles O44: the padded length is the next multiple of 16, and each block of ENC_BLOCKS has 16 bytes. -/
theorem paddingAndLengths : Obligations.PaddingAndLengths := by
  unfold Obligations.PaddingAndLengths
  intro n k p
  have hlen := length_pad p
  refine ⟨pad_of_full, pad_of_short, by omega, length_encBlocks n k p, fun h => ?_, fun h => ?_⟩
  · rw [length_encBlocks, pad_of_full h]
  · rw [length_encBlocks]
    omega

/-- Settles O45: block by block, and in a block byte by byte. -/
theorem encBlocksIsByteByByteXor : Obligations.EncBlocksIsByteByByteXor := by
  unfold Obligations.EncBlocksIsByteByByteXor
  refine ⟨length_encBlocks, fun n k p t j h => ?_⟩
  rw [length_pad_eq_blocks] at h
  rw [getElem?_encBlocks n k p j (by omega), keystreamAt, nonceAt_eq]

/-- Settles O46: ENC_BLOCKS has no padding to take, so each byte meets the same keystream byte twice. -/
theorem decryptingEncryptedGivesPadded : Obligations.DecryptingEncryptedGivesPadded := by
  unfold Obligations.DecryptingEncryptedGivesPadded
  intro n k p
  have hlen := length_encBlocks n k p
  have hmul := length_pad_eq_blocks p
  have hfull : pad (encBlocks n k p) = encBlocks n k p := pad_of_full (by omega)
  have hcount : blockCount (encBlocks n k p) = blockCount p := by
    rw [blockCount, hfull, hlen]
    rfl
  refine List.ext_getElem? fun i => ?_
  by_cases hi : i < (pad p).length
  · obtain ⟨t, j, hij, ht⟩ : ∃ (t : Nat) (j : Fin 16), i = 16 * t + j.val ∧ t < blockCount p :=
      ⟨i / 16, ⟨i % 16, by omega⟩, by simp; omega, by omega⟩
    rw [hij, decBlocks, getElem?_encBlocks n k _ j (by omega), hfull, getElem?_encBlocks n k p j ht, Option.map_map]
    simp [Function.comp_def]
  · have hdec : (decBlocks n k (encBlocks n k p)).length = (pad p).length := by
      rw [decBlocks, length_encBlocks, hfull, hlen]
    rw [List.getElem?_eq_none (by omega), List.getElem?_eq_none (by omega)]

end Sys2Proof
end

section
/-! PROOFS. Under every key the cipher is injective, round by round, so the keystream blocks of different counters
differ (R131, R100). -/

namespace Sys2Proof

/-! ### The steps of a round -/

/-- The rows of the inverse S-box, laid out as those of the S-box itself (R123). -/
def invSboxRows : List (BitVec 128) :=
  [0x52096ad53036a538bf40a39e81f3d7fb,
   0x7ce339829b2fff87348e4344c4dee9cb,
   0x547b9432a6c2233dee4c950b42fac34e,
   0x082ea16628d924b2765ba2496d8bd125,
   0x72f8f66486689816d4a45ccc5d65b692,
   0x6c704850fdedb9da5e154657a78d9d84,
   0x90d8ab008cbcd30af7e45805b8b34506,
   0xd02c1e8fca3f0f02c1afbd0301138a6b,
   0x3a9111414f67dcea97f2cfcef0b4e673,
   0x96ac7422e7ad3585e2f937e81c75df6e,
   0x47f11a711d29c5896fb7620eaa18be1b,
   0xfc563e4bc6d279209adbc0fe78cd5af4,
   0x1fdda8338807c731b11210592780ec5f,
   0x60517fa919b54a0d2de57a9f93c99cef,
   0xa0e03b4dae2af5b0c8ebbb3c83539961,
   0x172b047eba77d626e169146355210c7d]

/-- The byte whose SBOX entry is b. -/
def invSbox (b : Byte) : Byte :=
  (invSboxRows.getD (b.toNat / 16) 0).extractLsb' (8 * (15 - b.toNat % 16)) 8

theorem invSbox_sbox : ∀ a : Byte, invSbox (sbox a) = a := by decide

theorem sbox_injective : Function.Injective sbox :=
  Function.LeftInverse.injective (g := invSbox) invSbox_sbox

theorem Four.map_injective {α β : Type} {f : α → β} (hf : Function.Injective f) : Function.Injective (Four.map f) := by
  intro p q h
  refine Four.ext_get fun i => hf ?_
  rw [← Four.get_map f p, h, Four.get_map]

theorem subBytes_injective : Function.Injective subBytes :=
  Four.map_injective (Four.map_injective sbox_injective)

/-- ShiftRows moves every byte of the state to one place (R124). -/
theorem shiftRows_injective : Function.Injective shiftRows := by
  intro a b h
  have hplace (s : Blk) (c r : Fin 4) : ((shiftRows s).get (c - r)).get r = (s.get c).get r := by
    rw [shiftRows, Four.get_ofFn, Four.get_ofFn, sub_add_cancel]
  refine Four.ext_get fun c => Four.ext_get fun r => ?_
  rw [← hplace a, h, hplace b]

/-- Doubling in the field is additive (R121). -/
theorem xtime_xor (a b : Byte) : xtime (a ^^^ b) = xtime a ^^^ xtime b := by
  have hreduce : (if (a ^^^ b).getLsbD 7 then 0x1B else 0x00 : Byte) =
      (if a.getLsbD 7 then 0x1B else 0x00) ^^^ (if b.getLsbD 7 then 0x1B else 0x00) := by
    rw [BitVec.getLsbD_xor]
    cases a.getLsbD 7 <;> cases b.getLsbD 7 <;> rfl
  rw [xtime, xtime, xtime, hreduce, BitVec.shiftLeft_xor_distrib]
  ac_rfl

theorem xor_self_left (a b : Byte) : a ^^^ (a ^^^ b) = b := by
  rw [← BitVec.xor_assoc, BitVec.xor_self, BitVec.zero_xor]

theorem xor_left_swap (a b c : Byte) : a ^^^ (b ^^^ c) = b ^^^ (a ^^^ c) := by
  rw [← BitVec.xor_assoc, BitVec.xor_comm a, BitVec.xor_assoc]

/-- One byte of a mixed column: 2a + 3b + c + d, with the doublings taken together. -/
def mixByte (a b c d : Byte) : Byte := xtime (a ^^^ b) ^^^ (b ^^^ c ^^^ d)

theorem mixColumn_eq_mixByte (a : Col) :
    mixColumn a = ⟨mixByte a.x0 a.x1 a.x2 a.x3, mixByte a.x1 a.x2 a.x3 a.x0,
      mixByte a.x2 a.x3 a.x0 a.x1, mixByte a.x3 a.x0 a.x1 a.x2⟩ := by
  ext1 <;> simp only [mixColumn, mixByte, mul3, xtime_xor] <;> ac_rfl

/-- A byte mixed twice has four times the sum of it and the byte two rows on added to it. -/
theorem mixByte_mixByte (a b c d : Byte) :
    mixByte (mixByte a b c d) (mixByte b c d a) (mixByte c d a b) (mixByte d a b c) =
      a ^^^ xtime (xtime (a ^^^ c)) := by
  have htwo : mixByte a b c d ^^^ mixByte b c d a = xtime (a ^^^ c) ^^^ (a ^^^ b) := by
    simp [mixByte, xtime_xor, BitVec.xor_assoc, BitVec.xor_comm, xor_left_swap]
  have hthree : mixByte b c d a ^^^ mixByte c d a b ^^^ mixByte d a b c = xtime (a ^^^ b) ^^^ a := by
    simp [mixByte, xtime_xor, BitVec.xor_assoc, BitVec.xor_comm, xor_left_swap]
  rw [mixByte, htwo, hthree, xtime_xor, BitVec.xor_assoc, xor_self_left, BitVec.xor_comm]

theorem mixColumn_mixColumn (a : Col) :
    mixColumn (mixColumn a) =
      ⟨a.x0 ^^^ xtime (xtime (a.x0 ^^^ a.x2)), a.x1 ^^^ xtime (xtime (a.x1 ^^^ a.x3)),
       a.x2 ^^^ xtime (xtime (a.x2 ^^^ a.x0)), a.x3 ^^^ xtime (xtime (a.x3 ^^^ a.x1))⟩ := by
  rw [mixColumn_eq_mixByte, mixColumn_eq_mixByte]
  ext1 <;> exact mixByte_mixByte ..

/-- Done four times the mix is the identity: the second time the sums are the same, and adding them again takes them
away. -/
theorem mixColumn_four_times (a : Col) : mixColumn (mixColumn (mixColumn (mixColumn a))) = a := by
  have hsum (x y : Byte) :
      (x ^^^ xtime (xtime (x ^^^ y))) ^^^ (y ^^^ xtime (xtime (y ^^^ x))) = x ^^^ y := by
    rw [BitVec.xor_comm y x, BitVec.xor_assoc, xor_left_swap _ y, BitVec.xor_self, BitVec.xor_zero]
  rw [mixColumn_mixColumn (mixColumn (mixColumn a)), mixColumn_mixColumn]
  simp only [hsum, BitVec.xor_assoc, BitVec.xor_self, BitVec.xor_zero]

theorem mixColumn_injective : Function.Injective mixColumn :=
  Function.LeftInverse.injective (g := fun c => mixColumn (mixColumn (mixColumn c))) mixColumn_four_times

theorem addRoundKey_injective (rk : Quad) : Function.Injective (addRoundKey rk) :=
  Function.LeftInverse.injective (g := addRoundKey rk) fun s => Blk.xor_xor_cancel s rk.toBlk

/-! ### The cipher -/

theorem aesRound_injective (rk : Quad) : Function.Injective (aesRound rk) :=
  (addRoundKey_injective rk).comp
    ((Four.map_injective mixColumn_injective).comp (shiftRows_injective.comp subBytes_injective))

theorem aesLastRound_injective (rk : Quad) : Function.Injective (aesLastRound rk) :=
  (addRoundKey_injective rk).comp (shiftRows_injective.comp subBytes_injective)

theorem aesRounds_injective (k : Quad) (n : Nat) : Function.Injective fun x => aesRounds k x n := by
  induction n with
  | zero => exact addRoundKey_injective _
  | succ n ih => exact (aesRound_injective _).comp ih

/-- Under every key different blocks have different encryptions (R131). -/
theorem aes128Enc_injective (k : Blk) : Function.Injective (aes128Enc k) :=
  (aesLastRound_injective _).comp (aesRounds_injective k.toQuad 9)

/-! ### The keystream -/

theorem Quad.toBlk_injective : Function.Injective Quad.toBlk :=
  Function.LeftInverse.injective (g := Blk.toQuad) Quad.toQuad_toBlk

theorem nonceAt_inj {n : Quad} {t u : Nat} : nonceAt n t = nonceAt n u ↔ t % 2 ^ 32 = u % 2 ^ 32 := by
  constructor
  · intro h
    have hx3 : n.x3 + BitVec.ofNat 32 t = n.x3 + BitVec.ofNat 32 u := congrArg Four.x3 h
    simpa using congrArg BitVec.toNat ((BitVec.add_right_inj n.x3).mp hx3)
  · intro h
    have hword : BitVec.ofNat 32 t = BitVec.ofNat 32 u := BitVec.eq_of_toNat_eq (by simpa using h)
    rw [nonceAt, hword, nonceAt]

/-- Settles O47: the keystream block is an injective function of the counter, and the counter has 2^32 values. -/
theorem keystreamBlocksAreDistinct : Obligations.KeystreamBlocksAreDistinct := by
  unfold Obligations.KeystreamBlocksAreDistinct
  intro n k t u
  constructor
  · intro ht hu hne h
    have hnonce : nonceAt n t = nonceAt n u := Quad.toBlk_injective (aes128Enc_injective k h)
    have hmod := nonceAt_inj.mp hnonce
    rw [Nat.mod_eq_of_lt ht, Nat.mod_eq_of_lt hu] at hmod
    exact hne hmod
  · rw [keystreamAt, nonceAt_inj.mpr (Nat.add_mod_right t (2 ^ 32)), keystreamAt]

end Sys2Proof
end

section
/-! PROOFS. The cipher driver sequence, run by the block: its lines one after the other, then block by block (R82, R86,
R87, R98, R102). -/

namespace Sys2Proof

/-! ### The bytes of one block of a message -/

/-- Byte j of block t is one of the message exactly when it is one of the block's LEN bytes (R98). -/
theorem lt_blockLen_iff {p : List Byte} {t j : Nat} (ht : t < blockCount p) (hj : j < 16) :
    j < blockLen p t ↔ 16 * t + j < p.length := by
  rw [blockCount_eq] at ht
  rw [blockLen, blockCount_eq]
  split <;> omega

theorem blockLen_bounds (p : List Byte) (t : Nat) : 1 ≤ blockLen p t ∧ blockLen p t ≤ 16 := by
  rw [blockLen]
  split <;> omega

theorem get_be32_wordOfBytes (q : List Byte) (m : Nat) (r : Fin 4) :
    (be32 (wordOfBytes q m)).get r = q.getD (m + r.val) 0 := by
  rw [wordOfBytes, be32_wordBe]
  fin_cases r <;> rfl

/-- Block t of the padded message. -/
def messageBlock (p : List Byte) (t : Nat) : Blk := Blk.ofBytes fun j => (pad p).getD (16 * t + j.val) 0

/-- What a GO takes for block t is that block of the padded message, whatever stands in DIN beyond LEN: the block itself
supplies the filler (R87). -/
theorem inBlk_eq_messageBlock {p tail : List Byte} {t : Nat} {d : Quad} (ht : t < blockCount p)
    (hd : ∀ i : Fin 4, 4 * i.val < blockLen p t → d.get i = wordOfBytes (p ++ tail) (16 * t + 4 * i.val)) :
    Machine.inBlk d.toBlk (blockLen p t) = messageBlock p t := by
  refine Blk.ext_byte fun j => ?_
  have hlen := lt_blockLen_iff ht j.isLt
  obtain ⟨n, hpad⟩ := pad_eq_append p
  rw [Machine.inBlk, messageBlock, Blk.byte_ofBytes, Blk.byte_ofBytes, hpad]
  by_cases hj : j.val < blockLen p t
  · have hbyte : d.toBlk.byte j = (p ++ tail).getD (16 * t + j.val) 0 := by
      rw [Blk.byte, Quad.toBlk, Four.get_map, hd _ (by simp; omega), get_be32_wordOfBytes, add_assoc]
      simp only [Nat.div_add_mod]
    rw [if_pos hj, hbyte, List.getD_append _ _ _ _ (hlen.mp hj), List.getD_append _ _ _ _ (hlen.mp hj)]
  · have hin : 16 * t + j.val < (p ++ List.replicate n Config.padByte).length := by
      rw [← hpad, length_pad_eq_blocks]
      omega
    rw [List.length_append, List.length_replicate] at hin
    rw [if_neg hj, List.getD_append_right _ _ _ _ (by omega), List.getD_replicate _ (by omega)]

theorem toBytes_xor_eq_cipherBlock (n : Quad) (k : Blk) {p : List Byte} {t : Nat} (ht : t < blockCount p) :
    ((messageBlock p t).xor (keystreamAt n k t)).toBytes = cipherBlock n k (pad p) t := by
  have hlen := length_pad_eq_blocks p
  refine List.ext_getElem? fun i => ?_
  by_cases hi : i < 16
  · have hin : 16 * t + i < (pad p).length := by omega
    have hleft := Blk.getElem?_toBytes ((messageBlock p t).xor (keystreamAt n k t)) ⟨i, hi⟩
    have hright := getElem?_cipherBlock n k (pad p) t ⟨i, hi⟩
    rw [hleft, hright, Blk.byte_xor, messageBlock, Blk.byte_ofBytes, List.getElem?_eq_getElem hin,
      List.getD_eq_getElem _ _ hin]
    rfl
  · rw [List.getElem?_eq_none (by rw [Blk.length_toBytes]; omega),
      List.getElem?_eq_none (by rw [length_cipherBlock ht]; omega)]

/-- The bytes of four words read one after the other are those of the block they hold. -/
theorem flatMap_be32_toList (q : Quad) : (q.toList.flatMap fun w => (be32 w).toList) = q.toBlk.toBytes := rfl

/-! ### Counters -/

theorem nonceAt_zero (n : Quad) : nonceAt n 0 = n := by
  rw [nonceAt, BitVec.add_zero]

theorem nonceAt_nonceAt (n : Quad) (t u : Nat) : nonceAt (nonceAt n t) u = nonceAt n (t + u) := by
  rw [nonceAt, nonceAt, nonceAt, BitVec.ofNat_add, BitVec.add_assoc]

/-! ### Words loaded into a register group -/

/-- The group after the elements i of a list have been set to f i, one after the other. -/
def Quad.load (f : Fin 4 → Word) (is : List (Fin 4)) (q : Quad) : Quad := is.foldl (fun q i => q.set i (f i)) q

theorem Quad.get_load_of_notMem (f : Fin 4 → Word) {is : List (Fin 4)} (q : Quad) {j : Fin 4} (h : j ∉ is) :
    (q.load f is).get j = q.get j := by
  induction is generalizing q with
  | nil => rfl
  | cons i is ih =>
    exact (ih (q.set i (f i)) (List.not_mem_of_not_mem_cons h)).trans
      (Four.get_set_other q _ (List.ne_of_not_mem_cons h))

theorem Quad.get_load_of_mem (f : Fin 4 → Word) {is : List (Fin 4)} (q : Quad) {j : Fin 4} (h : j ∈ is) :
    (q.load f is).get j = f j := by
  induction is generalizing q with
  | nil => cases h
  | cons i is ih =>
    by_cases hj : j ∈ is
    · exact ih (q.set i (f i)) hj
    · obtain rfl : j = i := (List.mem_cons.mp h).resolve_right hj
      exact (Quad.get_load_of_notMem f _ hj).trans (Four.get_set_same q j (f j))

/-! ### The lines of the driver sequence -/

/-- The registers that block t of a message has words for: those that hold one of its bytes (R98). -/
def dinIndices (p : List Byte) (t : Nat) : List (Fin 4) :=
  [0, 1, 2, 3].filter fun i => decide (4 * i.val < blockLen p t)

theorem mem_dinIndices {p : List Byte} {t : Nat} {i : Fin 4} (h : 4 * i.val < blockLen p t) : i ∈ dinIndices p t :=
  List.mem_filter.mpr ⟨by fin_cases i <;> decide, decide_eq_true h⟩

theorem msgBlockFrom_eq (q p : List Byte) (t : Nat) :
    Asm.msgBlockFrom q p t =
      (dinIndices p t).map (fun i => .wr (.reg (.din i)) (wordOfBytes q (16 * t + 4 * i.val))) ++
        (Asm.go (blockLen p t) ++ Asm.rdblk) :=
  List.append_assoc ..

/-- DIN after the words of block t are written, cut out of q. -/
def blockDin (q p : List Byte) (t : Nat) (d : Quad) : Quad :=
  d.load (fun i => wordOfBytes q (16 * t + 4 * i.val)) (dinIndices p t)

theorem get_blockDin (q : List Byte) {p : List Byte} {t : Nat} (d : Quad) {i : Fin 4} (h : 4 * i.val < blockLen p t) :
    (blockDin q p t d).get i = wordOfBytes q (16 * t + 4 * i.val) :=
  Quad.get_load_of_mem _ d (mem_dinIndices h)

/-- The line go len is the transaction WR.GO with LEN = len and no reserved bit (R69). -/
theorem decode_go {len : Nat} (h : len ≤ 16) :
    decode (AsmLine.assemble (.wr (.reg .go) (BitVec.ofNat 32 len))) = .ok (.wrGo 0 (BitVec.ofNat 5 len)) := by
  have hdata : BitVec.ofNat 32 len = 0#27 ++ BitVec.ofNat 5 len := by
    refine BitVec.eq_of_toNat_eq ?_
    rw [toNat_append_eq_add, BitVec.toNat_ofNat, BitVec.toNat_ofNat, BitVec.toNat_ofNat]
    omega
  rw [hdata]
  exact decode_encode (.wrGo 0 (BitVec.ofNat 5 len))

/-- The events of two listings, one after the other. -/
theorem events_append (ls ms : List AsmLine) (rest : List Machine.PortEvent) :
    (Asm.words (ls ++ ms)).map Machine.PortEvent.txn ++ rest =
      (Asm.words ls).map Machine.PortEvent.txn ++ ((Asm.words ms).map Machine.PortEvent.txn ++ rest) := by
  rw [Asm.words, List.map_append, List.map_append, List.append_assoc]
  rfl

end Sys2Proof

namespace Sys2Proof.Machine

variable {s : State} {rest : List PortEvent}

/-- A line that writes NONCE[i] loads the word. -/
theorem run_wrNonce {i : Fin 4} {v : Word} (n : Nat)
    (hp : s.pending = .txn (AsmLine.assemble (.wr (.reg (.nonce i)) v)) :: rest) (hf : s.fault = false) :
    Sys2Proof.core.run (n + 1) s = Sys2Proof.core.run n (State.loadNonce i v { s with pending := rest }) :=
  run_write n hp (decode_encode (.wrNonce i v)) (fun _ => rfl) hf

/-- ldnonce loads its four words. -/
theorem run_ldnonce {w : Quad} (n : Nat) (hp : s.pending = (Asm.words (Asm.ldnonce w)).map .txn ++ rest)
    (hf : s.fault = false) :
    Sys2Proof.core.run (n + 4) s = Sys2Proof.core.run n { s with nonce := w, pending := rest } := by
  refine .trans (run_wrNonce (n + 3) hp hf) ?_
  refine .trans (run_wrNonce (n + 2) rfl hf) ?_
  refine .trans (run_wrNonce (n + 1) rfl hf) ?_
  exact .trans (run_wrNonce n rfl hf) rfl

/-- Lines that write DIN words load them, one after the other. -/
theorem run_wrDin_lines {f : Fin 4 → Word} (is : List (Fin 4)) (n : Nat)
    (hp : s.pending = (Asm.words (is.map fun i => .wr (.reg (.din i)) (f i))).map .txn ++ rest)
    (hf : s.fault = false) :
    Sys2Proof.core.run (n + is.length) s =
      Sys2Proof.core.run n { s with din := s.din.load f is, pending := rest } := by
  induction is generalizing s with
  | nil =>
    obtain rfl : s.pending = rest := hp
    rfl
  | cons i is ih =>
    refine .trans (run_write (n + is.length) hp (decode_encode (.wrDin i (f i))) (fun _ => rfl) hf) ?_
    exact ih (s := State.loadDin i (f i) { s with pending := _ }) rfl hf

/-- A GO of legal length under a complete key processes a block. -/
theorem run_go {x : T43} {len : BitVec 5} (n : Nat) (hp : s.pending = .txn x :: rest)
    (hd : decode x = .ok (.wrGo 0 len)) (hl : lenLegal len = true) (hf : s.fault = false) (hk : s.keymask = 0b1111) :
    Sys2Proof.core.run (n + 1) s = Sys2Proof.core.run n (State.processBlock len { s with pending := rest }) :=
  (run_write n hp hd (fun _ => rfl) hf).trans (congrArg (Sys2Proof.core.run n) (go_of_complete hl hk))

/-- A read of DOUT[i] answers it. -/
theorem run_rdDout {i : Fin 4} (n : Nat) (hp : s.pending = .txn (AsmLine.assemble (.rd (.reg (.dout i)))) :: rest) :
    Sys2Proof.core.run (n + 1) s =
      Sys2Proof.core.run n (State.respond (s.dout.get i) { s with pending := rest }) :=
  run_succ n (step_of_decode hp (decode_encode (.rdDout i)))

/-- rdblk answers the four words of DOUT. -/
theorem run_rdblk (n : Nat) (hp : s.pending = (Asm.words Asm.rdblk).map .txn ++ rest) :
    Sys2Proof.core.run (n + 4) s =
      Sys2Proof.core.run n { s with responses := s.responses ++ s.dout.toList, pending := rest } := by
  refine .trans (run_rdDout (n + 3) hp) ?_
  refine .trans (run_rdDout (n + 2) rfl) ?_
  refine .trans (run_rdDout (n + 1) rfl) ?_
  refine .trans (run_rdDout n rfl) (congrArg (Sys2Proof.core.run n) ?_)
  have hanswers : s.responses ++ s.dout.toList =
      s.responses ++ [s.dout.get 0] ++ [s.dout.get 1] ++ [s.dout.get 2] ++ [s.dout.get 3] := by
    simp [Four.toList]
  rw [hanswers]
  rfl

/-! ### Blocks -/

/-- The lines of block t leave its cipher block in DOUT, answer it and count the nonce up. -/
theorem run_msgBlock {p tail : List Byte} {t : Nat} (ht : t < blockCount p)
    (hp : s.pending = (Asm.words (Asm.msgBlockFrom (p ++ tail) p t)).map .txn ++ rest) (hf : s.fault = false)
    (hk : s.keymask = 0b1111) :
    ∃ d o, Sys2Proof.core.run (Asm.msgBlockFrom (p ++ tail) p t).length s =
        .next { s with
          din := d, dout := o, dvalid := true, nonce := nonceAt s.nonce 1, responses := s.responses ++ o.toList,
          pending := rest } ∧
      o.toBlk = (messageBlock p t).xor s.keystream := by
  obtain ⟨hpos, hle⟩ := blockLen_bounds p t
  have hlen : (BitVec.ofNat 5 (blockLen p t)).toNat = blockLen p t := Nat.mod_eq_of_lt (by omega)
  have hlegal : lenLegal (BitVec.ofNat 5 (blockLen p t)) = true :=
    (lenLegal_eq_true_iff _).mpr (by rw [hlen]; exact ⟨hpos, hle⟩)
  have hcount : (Asm.msgBlockFrom (p ++ tail) p t).length = 0 + 4 + 1 + (dinIndices p t).length := by
    simp [msgBlockFrom_eq, Asm.go, Asm.rdblk]
    omega
  rw [msgBlockFrom_eq, events_append, events_append] at hp
  refine ⟨blockDin (p ++ tail) p t s.din,
    (State.outBlk { s with din := blockDin (p ++ tail) p t s.din } (BitVec.ofNat 5 (blockLen p t))).toQuad, ?_, ?_⟩
  · rw [hcount, run_wrDin_lines _ _ hp hf]
    refine .trans (run_go _ rfl (decode_go hle) hlegal hf hk) ?_
    exact .trans (run_rdblk 0 rfl) rfl
  · rw [Blk.toBlk_toQuad, State.outBlk, hlen]
    exact congrArg (Blk.xor · _) (inBlk_eq_messageBlock ht fun i hi => get_blockDin _ _ hi)

/-- The lines of the first m blocks answer their cipher blocks and count the nonce up by m. -/
theorem run_msgBlocks {p tail : List Byte} {m : Nat} (hm : m ≤ blockCount p)
    (hp : s.pending = (Asm.words ((List.range m).flatMap (Asm.msgBlockFrom (p ++ tail) p))).map .txn ++ rest)
    (hf : s.fault = false) (hk : s.keymask = 0b1111) :
    ∃ d o v rs, Sys2Proof.core.run ((List.range m).flatMap (Asm.msgBlockFrom (p ++ tail) p)).length s =
        .next { s with
          din := d, dout := o, dvalid := v, nonce := nonceAt s.nonce m, responses := s.responses ++ rs,
          pending := rest } ∧
      (rs.flatMap fun w => (be32 w).toList) =
        (List.range m).flatMap (cipherBlock s.nonce s.keyBytes (pad p)) := by
  induction m generalizing rest with
  | zero =>
    obtain rfl : s.pending = rest := hp
    refine ⟨s.din, s.dout, s.dvalid, [], ?_, rfl⟩
    rw [nonceAt_zero, List.append_nil]
    rfl
  | succ m ih =>
    rw [List.range_succ, List.flatMap_append, List.flatMap_singleton] at hp ⊢
    rw [events_append] at hp
    obtain ⟨d, o, v, rs, hrun, hrs⟩ := ih (by omega) hp
    obtain ⟨d', o', hrun', ho⟩ := run_msgBlock (tail := tail) (rest := rest) (Nat.lt_of_succ_le hm)
      (s := { s with
        din := d, dout := o, dvalid := v, nonce := nonceAt s.nonce m, responses := s.responses ++ rs, pending := _ })
      rfl hf hk
    refine ⟨d', o', true, rs ++ o'.toList, ?_, ?_⟩
    · rw [List.length_append, run_add _ _ hrun]
      refine hrun'.trans ?_
      rw [nonceAt_nonceAt, List.append_assoc]
    · rw [List.flatMap_append, hrs, flatMap_be32_toList, ho, List.flatMap_append, List.flatMap_singleton]
      exact congrArg (_ ++ ·) (toBytes_xor_eq_cipherBlock s.nonce s.keyBytes (by omega))

/-- The driver sequence after the key is loaded: the nonce, then all blocks of the message. -/
theorem run_message {n : Quad} {p tail : List Byte}
    (hp : s.pending = (Asm.words (Asm.ldnonce n ++
      (List.range (blockCount p)).flatMap (Asm.msgBlockFrom (p ++ tail) p))).map .txn ++ rest)
    (hf : s.fault = false) (hk : s.keymask = 0b1111) :
    ∃ d o v rs, Sys2Proof.core.run (Asm.ldnonce n ++
          (List.range (blockCount p)).flatMap (Asm.msgBlockFrom (p ++ tail) p)).length s =
        .next { s with
          din := d, dout := o, dvalid := v, nonce := nonceAt n (blockCount p), responses := s.responses ++ rs,
          pending := rest } ∧
      (rs.flatMap fun w => (be32 w).toList) = encBlocks n s.keyBytes p := by
  rw [events_append] at hp
  obtain ⟨d, o, v, rs, hrun, hrs⟩ := run_msgBlocks (s := { s with nonce := n, pending := _ }) le_rfl rfl hf hk
  refine ⟨d, o, v, rs, ?_, hrs⟩
  rw [List.length_append, Nat.add_comm]
  exact (run_ldnonce _ hp hf).trans hrun

/-- The whole driver sequence, the key writes first. -/
theorem run_encmsgTail {n : Quad} {k : Blk} {p tail : List Byte}
    (hp : s.pending = (Asm.words (Asm.encmsgTail n k p tail)).map .txn ++ rest) (hf : s.fault = false) :
    ∃ d o v rs, Sys2Proof.core.run (Asm.encmsgTail n k p tail).length s =
        .next { s with
          key := k.toQuad, keymask := 0b1111, din := d, dout := o, dvalid := v, nonce := nonceAt n (blockCount p),
          responses := s.responses ++ rs, pending := rest } ∧
      (rs.flatMap fun w => (be32 w).toList) = encBlocks n k p := by
  rw [Asm.encmsgTail, List.append_assoc, events_append] at hp
  obtain ⟨d, o, v, rs, hrun, hrs⟩ :=
    run_message (s := { s with key := k.toQuad, keymask := 0b1111, pending := _ }) rfl hf rfl
  refine ⟨d, o, v, rs, ?_, hrs.trans (congrArg (encBlocks n · p) k.toBlk_toQuad)⟩
  rw [Asm.encmsgTail, List.append_assoc, List.length_append, Nat.add_comm]
  exact (run_ldkey _ hp hf).trans hrun

/-- Any number of GOs of legal lengths counts the nonce up once each (R82, R86). -/
theorem run_gos {lens : List (BitVec 5)} (hl : ∀ l ∈ lens, 1 ≤ l.toNat ∧ l.toNat ≤ 16)
    (hp : s.pending = (lens.map fun l => encode (.wrGo 0 l)).map .txn ++ rest) (hf : s.fault = false)
    (hk : s.keymask = 0b1111) :
    ∃ o v, Sys2Proof.core.run lens.length s =
      .next { s with dout := o, dvalid := v, nonce := nonceAt s.nonce lens.length, pending := rest } := by
  induction lens generalizing s with
  | nil =>
    obtain rfl : s.pending = rest := hp
    refine ⟨s.dout, s.dvalid, ?_⟩
    rw [List.length_nil, nonceAt_zero]
    rfl
  | cons l lens ih =>
    obtain ⟨hhead, htail⟩ := List.forall_mem_cons.mp hl
    obtain ⟨o, v, hrun⟩ := ih htail (s := State.processBlock l { s with pending := _ }) rfl hf hk
    refine ⟨o, v, ?_⟩
    refine .trans (run_go _ hp (decode_encode (.wrGo 0 l)) ((lenLegal_eq_true_iff l).mpr hhead) hf hk) ?_
    refine hrun.trans ?_
    have hcount : nonceAt (nonceAt s.nonce 1) lens.length = nonceAt s.nonce (lens.length + 1) := by
      rw [nonceAt_nonceAt, Nat.add_comm]
    rw [List.length_cons, ← hcount]
    rfl

/-- The transactions issued to an idle port are the events to come. -/
theorem issue_pending_of_idle (h : s.pending = []) (ts : List T43) : (s.issue ts).pending = ts.map .txn ++ [] := by
  rw [issue_pending, h, List.nil_append, List.append_nil]

end Sys2Proof.Machine

namespace Sys2Proof

open Machine

/-- Settles O39: a GO leaves everything but DOUT, DVALID and the counter, and every GO counts one. -/
theorem nonceThreeCountsTheBlocks : Obligations.NonceThreeCountsTheBlocks := by
  unfold Obligations.NonceThreeCountsTheBlocks
  intro lens s hf hk hp hl
  obtain ⟨o, v, hrun⟩ := run_gos hl (issue_pending_of_idle hp _) hf hk
  refine ⟨_, hrun, ?_, rfl, rfl, rfl, rfl, rfl, hf, rfl⟩
  rw [nonceAt_eq, BitVec.toNat_ofNat, Nat.mod_mod]
  rfl

/-- Settles O49: a GO takes no byte beyond its LEN, so the words cut out of the tail reach DIN and nothing else. -/
theorem bytesBeyondTheMessageMayBeAnything : Obligations.BytesBeyondTheMessageMayBeAnything := by
  unfold Obligations.BytesBeyondTheMessageMayBeAnything
  intro n k p tail s hf hp
  obtain ⟨d, o, v, rs, hrun, hrs⟩ := run_encmsgTail (issue_pending_of_idle hp _) hf
  exact ⟨_, rs, hrun, rfl, hrs, nonceAt_eq n _, k.toBlk_toQuad, rfl, hf, rfl⟩

/-- Settles O48: the sequence with the filler for a tail; without the key writes it begins at the nonce. -/
theorem driverSequenceComputesEncBlocks : Obligations.DriverSequenceComputesEncBlocks := by
  unfold Obligations.DriverSequenceComputesEncBlocks
  intro n k p s hf hp
  obtain ⟨m, hpad⟩ := pad_eq_append p
  have hblocks : Asm.msgBlocks p =
      (List.range (blockCount p)).flatMap (Asm.msgBlockFrom (p ++ List.replicate m Config.padByte) p) := by
    rw [← hpad]
    rfl
  constructor
  · have hencmsg : Asm.encmsg n k p = Asm.encmsgTail n k p (List.replicate m Config.padByte) := by
      rw [Asm.encmsg, hblocks, Asm.encmsgTail]
    rw [hencmsg]
    exact bytesBeyondTheMessageMayBeAnything n k p _ s hf hp
  · rintro hk rfl
    rw [hblocks]
    obtain ⟨d, o, v, rs, hrun, hrs⟩ := run_message (issue_pending_of_idle hp _) hf hk
    exact ⟨_, rs, hrun, rfl, hrs, nonceAt_eq n _, hf⟩

end Sys2Proof
end

section
/-! PROOFS. A cipher message among transactions of the CRC unit and reads: these reach nothing the message looks at, so
its own transactions answer what they answer alone (R98, R203). -/

namespace Sys2Proof

theorem isWrite_of_decode {x : T43} {i : Instr} (h : decode x = .ok i) : i.isWrite = x.dir := by
  obtain ⟨r, -, rfl⟩ := (decode_eq_ok_iff x i).mp h
  cases x.dir with
  | true => rw [if_pos rfl, Instr.isWrite, encode_decodeWrite, T43.dir_pack]
  | false => rw [if_neg Bool.false_ne_true, Instr.isWrite, encode_decodeRead, T43.dir_pack]

/-- A word that is a legal transaction of the cipher unit. -/
def T43.IsCipher (x : T43) : Prop := ∃ i, decode x = .ok i ∧ Machine.isCipherUnit i = true

theorem isCipher_wr (r : Reg) (v : Word) (h : Machine.isCipherUnit (decodeWrite v r) = true) :
    (AsmLine.assemble (.wr (.reg r) v)).IsCipher :=
  ⟨_, Laws.ReadsBack.at_register true r v, h⟩

theorem isCipher_rd (r : Reg) (h : Machine.isCipherUnit (decodeRead r) = true) :
    (AsmLine.assemble (.rd (.reg r))).IsCipher :=
  ⟨_, Laws.ReadsBack.at_register false r 0, h⟩

/-- The driver sequence has transactions of the cipher unit and no others. -/
theorem isCipher_of_mem_encmsgTail {n : Quad} {k : Blk} {p tail : List Byte} :
    ∀ l ∈ Asm.encmsgTail n k p tail, l.assemble.IsCipher := by
  have hkey (i : Fin 4) (v : Word) := isCipher_wr (.key i) v rfl
  have hnonce (i : Fin 4) (v : Word) := isCipher_wr (.nonce i) v rfl
  have hdin (i : Fin 4) (v : Word) := isCipher_wr (.din i) v rfl
  have hgo (v : Word) := isCipher_wr .go v rfl
  have hdout (i : Fin 4) := isCipher_rd (.dout i) rfl
  have hblock (t : Nat) : ∀ l ∈ Asm.msgBlockFrom (p ++ tail) p t, l.assemble.IsCipher := by
    simp [msgBlockFrom_eq, Asm.go, Asm.rdblk, or_imp, forall_and, hdin, hgo, hdout]
  intro l hl
  simp only [Asm.encmsgTail, List.mem_append, List.mem_flatMap] at hl
  obtain (hl | hl) | ⟨t, -, hl⟩ := hl
  · revert l
    simp [Asm.ldkeyb, Asm.ldkey, hkey]
  · revert l
    simp [Asm.ldnonce, hnonce]
  · exact hblock t l hl

end Sys2Proof

namespace Sys2Proof.Machine

variable {s t u : State}

/-! ### What a transaction answers -/

/-- A write answers nothing, a read one word (R54, R55). -/
theorem Effect.answers {i : Instr} (e : Effect s i t) :
    ∃ ans, t.responses = s.responses ++ ans ∧ ans.length = if i.isWrite then 0 else 1 := by
  have hwrite (h : i.isWrite = true) :
      s.responses = s.responses ++ [] ∧ ([] : List Word).length = if i.isWrite then 0 else 1 :=
    ⟨(List.append_nil _).symm, by rw [h]; rfl⟩
  have hread (h : i.isWrite = false) (v : Word) : [v].length = if i.isWrite then 0 else 1 := by rw [h]; rfl
  cases e with
  | ignored h | badWritten h => exact ⟨[], hwrite h⟩
  | answered v h => exact ⟨[v], rfl, hread h v⟩
  | badReadRunning h | badReadHalted h => exact ⟨[0], rfl, hread h 0⟩
  | _ => exact ⟨[], hwrite (T43.dir_pack ..)⟩

theorem runTxn_responses {x : T43} (h : runTxn x s = .next t) :
    ∃ ans, t.responses = s.responses ++ ans ∧ ans.length = if x.dir then 0 else 1 := by
  obtain ⟨i, hd, hi⟩ | ⟨d, w, hd, hr⟩ := runTxn_cases h
  · rw [← isWrite_of_decode hd]
    exact (exec_effect hi).answers
  · obtain ⟨rfl, -, -⟩ := decode_error hd
    obtain ⟨hx, -, rfl⟩ | ⟨hx, -, rfl⟩ | ⟨hx, -, rfl⟩ | ⟨hx, -, rfl⟩ := takeReserved_cases hr <;> rw [hx]
    · exact ⟨[], (List.append_nil _).symm, rfl⟩
    · exact ⟨[0], rfl, rfl⟩
    · exact ⟨[], (List.append_nil _).symm, rfl⟩
    · exact ⟨[0], rfl, rfl⟩

/-! ### Transactions that are not the message's -/

/-- With FAULT = 0 a well-formed instruction of the CRC unit, or a legal read, leaves everything but CRC_ACC. -/
theorem Effect.of_bystander {i : Instr} (e : Effect s i t) (hwf : i.wellFormed = true)
    (hunit : isCrcUnit i = true ∨ i.isWrite = false) (hf : s.fault = false) :
    t = { s with crcAcc := t.crcAcc, responses := t.responses } := by
  have hill {p : Prop} (h : i.wellFormed = false) : p := absurd (h.symm.trans hwf) Bool.false_ne_true
  cases e with
  | byteFed | crcRestarted | crcNotRestarted | answered => rfl
  | ignored _ h | badReadHalted _ _ h => exact absurd (hf.symm.trans h) Bool.false_ne_true
  | badWritten _ h => exact hill h
  | badReadRunning _ h => exact hill (wellFormed_of_isIllegal h)
  | _ => exact hunit.elim nofun fun h => absurd (h.symm.trans (T43.dir_pack ..)) Bool.false_ne_true

theorem runTxn_bystander {x : T43} (hx : isCipherBystander x = true) (hf : s.fault = false)
    (h : runTxn x s = .next t) : t = { s with crcAcc := t.crcAcc, responses := t.responses } := by
  unfold isCipherBystander at hx
  obtain ⟨i, hd, hi⟩ | ⟨d, w, hd, -⟩ := runTxn_cases h
  · simp only [hd, Bool.and_eq_true, Bool.or_eq_true, Bool.not_eq_true'] at hx
    obtain ⟨hwf, hunit⟩ := hx
    exact (exec_effect hi).of_bystander hwf hunit hf
  · simp only [hd, Bool.false_eq_true] at hx

/-! ### The message's own transactions, in two states the message does not tell apart -/

/-- u is s but for CRC_ACC and the two ends of the port. -/
def SameButCrcAndPort (s u : State) : Prop := ∃ c p r, u = { s with crcAcc := c, pending := p, responses := r }

/-- The same, where both have answered alike since s had answered a and u had answered b. -/
def AnsweredAlike (a b : List Word) (s u : State) : Prop :=
  SameButCrcAndPort s u ∧ ∃ ans, s.responses = a ++ ans ∧ u.responses = b ++ ans

theorem answeredAlike_keepsControl (a b : List Word) : KeepsControl (AnsweredAlike a b) where
  fault := by rintro s _ ⟨⟨c, p, r, rfl⟩, -⟩; rfl
  keymask := by rintro s _ ⟨⟨c, p, r, rfl⟩, -⟩; rfl
  raiseFault := by rintro s _ ⟨⟨c, p, r, rfl⟩, hans⟩ _ _ _; exact ⟨⟨c, p, r, rfl⟩, hans⟩
  respond := by
    rintro s _ ⟨⟨c, p, r, rfl⟩, ans, hs, hu⟩ v
    refine ⟨⟨c, p, r ++ [v], rfl⟩, ans ++ [v], ?_, ?_⟩
    · rw [respond_responses, hs, List.append_assoc]
    · rw [respond_responses, hu, List.append_assoc]

/-- A transaction of the cipher unit looks at neither CRC_ACC nor the port. -/
theorem AnsweredAlike.exec_alike {a b : List Word} (h : AnsweredAlike a b s u) {i : Instr}
    (hi : isCipherUnit i = true) : Alike (AnsweredAlike a b) (exec i s) (exec i u) := by
  have hR := answeredAlike_keepsControl a b
  have ⟨⟨c, p, r, hu⟩, hans⟩ := h
  subst hu
  cases i with
  | wrKey n v => exact hR.writeTxn_alike h ⟨⟨c, p, r, rfl⟩, hans⟩
  | wrNonce n v => exact hR.writeTxn_alike h ⟨⟨c, p, r, rfl⟩, hans⟩
  | wrDin n v => exact hR.writeTxn_alike h ⟨⟨c, p, r, rfl⟩, hans⟩
  | wrGo rsvd len => exact hR.writeTxn_alike h (hR.go h rsvd len ⟨⟨c, p, r, rfl⟩, hans⟩)
  | wrCtrl rsvd clr =>
    refine hR.writeTxn_alike h (hR.ite_raiseFault h _ _ ?_)
    cases clr with
    | true => exact ⟨⟨c, p, r, rfl⟩, hans⟩
    | false => exact h
  | rdNonce n | rdDin n | rdDout n => exact hR.readTxn_alike h rfl
  | _ => cases hi

theorem SameButCrcAndPort.runTxn_alike (h : SameButCrcAndPort s u) {x : T43} (hx : x.IsCipher) :
    Alike (AnsweredAlike s.responses u.responses) (runTxn x s) (runTxn x u) := by
  obtain ⟨i, hd, hi⟩ := hx
  have hans : AnsweredAlike s.responses u.responses s u :=
    ⟨h, [], (List.append_nil _).symm, (List.append_nil _).symm⟩
  rw [runTxn_of_decode hd, runTxn_of_decode hd]
  exact hans.exec_alike hi

/-! ### Mixed lists -/

/-- The answers to the first transaction of a mixed list, none or one, are the message's when it is tagged. -/
theorem taggedAnswers_cons (z : Bool × T43) (zs : List (Bool × T43)) {ans : List Word} (rs : List Word)
    (h : ans.length = if z.2.dir then 0 else 1) :
    taggedAnswers (z :: zs) (ans ++ rs) = (if z.1 then ans else []) ++ taggedAnswers zs rs := by
  cases hdir : z.2.dir with
  | true =>
    obtain rfl : ans = [] := List.eq_nil_of_length_eq_zero (by simpa [hdir] using h)
    simp [taggedAnswers, hdir]
  | false =>
    obtain ⟨v, rfl⟩ := List.length_eq_one_iff.mp (by simpa [hdir] using h)
    cases htag : z.1 <;> simp [taggedAnswers, hdir, htag]

theorem length_reads_cons (z : Bool × T43) (zs : List (Bool × T43)) :
    ((z :: zs).filter fun z => !z.2.dir).length =
      (if z.2.dir then 0 else 1) + (zs.filter fun z => !z.2.dir).length := by
  cases hdir : z.2.dir with
  | true => simp [hdir]
  | false => simp [hdir, Nat.add_comm]

/-- A run of transactions that ends with FAULT = 0 began so (R202). -/
theorem running_of_run {xs : List T43} (hp : s.pending = xs.map .txn)
    (hrun : Sys2Proof.core.run xs.length s = .next t) (hf : t.fault = false) : s.fault = false := by
  induction xs generalizing s with
  | nil =>
    cases hrun
    exact hf
  | cons x xs ih =>
    obtain ⟨v, hv⟩ := runTxn_answers x { s with pending := xs.map .txn }
    have hstep : step s = .next v := (step_txn hp).trans hv
    have hvf := ih (runTxn_pending hv) ((run_succ _ hstep).symm.trans hrun)
    by_contra hs
    exact absurd (hvf.symm.trans (runTxn_stays_halted hv (by simpa using hs))) Bool.false_ne_true

/-- When the mixed list serves its first transaction, the message run alone serves it too, if it is tagged, or waits. -/
theorem advance_mixed {z : Bool × T43} {zs : List (Bool × T43)} {p : List PortEvent} {u₁ : State} {ans : List Word}
    (hcipher : z.1 = true → z.2.IsCipher) (hother : z.1 = false → isCipherBystander z.2 = true)
    (hs : s.pending = (taggedWords (z :: zs)).map .txn) (h : SameButCrcAndPort s u)
    (hrun : Sys2Proof.core.run (taggedWords (z :: zs)).length s = .next t) (hf : t.fault = false)
    (hu₁ : runTxn z.2 { u with pending := p } = .next u₁) (hans : u₁.responses = u.responses ++ ans) :
    ∃ s₁, s₁.pending = (taggedWords zs).map .txn ∧ SameButCrcAndPort s₁ u₁ ∧
      Sys2Proof.core.run (taggedWords zs).length s₁ = .next t ∧
      s₁.responses = s.responses ++ if z.1 then ans else [] := by
  obtain ⟨tag, x⟩ := z
  obtain ⟨c, q, r, hsame⟩ := h
  cases tag with
  | true =>
    have hpre : SameButCrcAndPort { s with pending := (taggedWords zs).map .txn } { u with pending := p } :=
      ⟨c, p, r, by rw [hsame]⟩
    obtain ⟨s₁, u₁', hs₁, hu₁', hsame₁, ans', hsans, huans⟩ := hpre.runTxn_alike (hcipher rfl)
    cases hu₁.symm.trans hu₁'
    obtain rfl : ans = ans' := List.append_cancel_left (hans.symm.trans huans)
    have hstep : step s = .next s₁ := (step_txn hs).trans hs₁
    exact ⟨s₁, runTxn_pending hs₁, hsame₁, (run_succ _ hstep).symm.trans hrun, hsans⟩
  | false =>
    have hsf : s.fault = false := running_of_run hs hrun hf
    have huf : u.fault = false := by rw [hsame]; exact hsf
    have hframe := runTxn_bystander (hother rfl) (by exact huf) hu₁
    exact ⟨s, hs, ⟨_, _, _, by rw [hframe, hsame]⟩, hrun, (List.append_nil _).symm⟩

/-- When the tagged transactions of a mixed list, run alone, end with FAULT = 0, the whole list ends in the same state
but for CRC_ACC and the port, and its tagged reads answer what they answer alone. -/
theorem run_mixed {zs : List (Bool × T43)} (hcipher : ∀ z ∈ zs, z.1 = true → z.2.IsCipher)
    (hother : ∀ z ∈ zs, z.1 = false → isCipherBystander z.2 = true)
    (hs : s.pending = (taggedWords zs).map .txn) (hu : u.pending = (zs.map fun z => z.2).map .txn)
    (h : SameButCrcAndPort s u) (hrun : Sys2Proof.core.run (taggedWords zs).length s = .next t)
    (hf : t.fault = false) :
    ∃ t' rs, Sys2Proof.core.run zs.length u = .next t' ∧ SameButCrcAndPort t t' ∧
      t'.responses = u.responses ++ rs ∧ rs.length = (zs.filter fun z => !z.2.dir).length ∧
      t.responses = s.responses ++ taggedAnswers zs rs := by
  induction zs generalizing s u with
  | nil =>
    cases hrun
    exact ⟨u, [], rfl, h, (List.append_nil _).symm, rfl, (List.append_nil _).symm⟩
  | cons z zs ih =>
    obtain ⟨hzcipher, hcipher⟩ := List.forall_mem_cons.mp hcipher
    obtain ⟨hzother, hother⟩ := List.forall_mem_cons.mp hother
    obtain ⟨u₁, hu₁⟩ := runTxn_answers z.2 { u with pending := (zs.map fun z => z.2).map .txn }
    obtain ⟨ans, hans, hlen⟩ := runTxn_responses hu₁
    obtain ⟨s₁, hs₁, hsame₁, hrun₁, hsans⟩ := advance_mixed hzcipher hzother hs h hrun hf hu₁ hans
    obtain ⟨t', rs, hrun', hsame', hrs, hcount, htag⟩ :=
      ih hcipher hother hs₁ (runTxn_pending hu₁) hsame₁ hrun₁
    have hstep : step u = .next u₁ := (step_txn hu).trans hu₁
    refine ⟨t', ans ++ rs, (run_succ _ hstep).trans hrun', hsame', ?_, ?_, ?_⟩
    · rw [hrs, hans, List.append_assoc]
    · rw [List.length_append, hlen, hcount, length_reads_cons]
    · rw [taggedAnswers_cons _ _ _ hlen, htag, hsans, List.append_assoc]

end Sys2Proof.Machine

namespace Sys2Proof

open Machine

/-- Settles O50: run alone the tagged transactions are a driver sequence, and among the others they answer alike. -/
theorem cipherMessageMayBeInterleaved : Obligations.CipherMessageMayBeInterleaved := by
  unfold Obligations.CipherMessageMayBeInterleaved
  intro n k p tail zs s hf hp hwords hother
  obtain ⟨t, rs, hrun, hrs, hbytes, hnonce, hkey, -, htf, -⟩ :=
    bytesBeyondTheMessageMayBeAnything n k p tail s hf hp
  have hcount : (Asm.encmsgTail n k p tail).length = (taggedWords zs).length := by
    rw [hwords, Asm.words, List.length_map]
  rw [← hwords, hcount] at hrun
  have hcipher (z : Bool × T43) (hz : z ∈ zs) (htag : z.1 = true) : z.2.IsCipher := by
    have hmem : z.2 ∈ taggedWords zs := List.mem_map_of_mem (List.mem_filter.mpr ⟨hz, htag⟩)
    rw [hwords] at hmem
    obtain ⟨l, hl, hz⟩ := List.mem_map.mp hmem
    exact hz ▸ isCipher_of_mem_encmsgTail l hl
  have hidle (xs : List T43) : (s.issue xs).pending = xs.map .txn := by rw [issue_pending, hp, List.nil_append]
  obtain ⟨t', rs', hrun', ⟨c, p', r, rfl⟩, hrs', hreads, htagged⟩ :=
    run_mixed hcipher hother (hidle _) (hidle _) ⟨s.crcAcc, _, s.responses, rfl⟩ hrun htf
  have hanswers : taggedAnswers zs rs' = rs := List.append_cancel_left (htagged.symm.trans hrs)
  exact ⟨_, rs', hrun', hrs', hreads, by rw [hanswers, hbytes], hnonce, hkey, htf⟩

end Sys2Proof
end

section
/-! PROOFS. The status word as a sum of its fields, and the read that answers it (R27, R160). -/

namespace Sys2Proof

/-- A field put in above everything a word holds weighs its value by its position, when it ends within the word. -/
theorem toNat_or_field {k : Nat} {v : Word} {a : Nat} (hv : v.toNat = a) (x : BitVec k) (n : Nat) (ha : a < 2 ^ n)
    (hn : k + n ≤ 32) : (v ||| (x.setWidth 32 <<< n)).toNat = a + x.toNat * 2 ^ n := by
  have hx : x.toNat * 2 ^ n < 2 ^ 32 :=
    calc x.toNat * 2 ^ n < 2 ^ k * 2 ^ n := Nat.mul_lt_mul_of_pos_right x.isLt (Nat.two_pow_pos n)
      _ = 2 ^ (k + n) := (Nat.pow_add 2 k n).symm
      _ ≤ 2 ^ 32 := Nat.pow_le_pow_right Nat.two_pos hn
  have hfield : (x.setWidth 32 <<< n).toNat = x.toNat <<< n := by
    rw [BitVec.toNat_shiftLeft, BitVec.toNat_setWidth_of_le (by omega), Nat.shiftLeft_eq, Nat.mod_eq_of_lt hx]
  rw [BitVec.toNat_or, hv, hfield, Nat.or_comm, ← Nat.shiftLeft_add_eq_or_of_lt ha, Nat.shiftLeft_eq, Nat.add_comm]

/-- Bits cut out of a word are 0 when they are 0 in its value. -/
theorem extractLsb'_eq_zero_iff {w : Nat} (v : BitVec w) (start len : Nat) :
    v.extractLsb' start len = 0 ↔ v.toNat / 2 ^ start % 2 ^ len = 0 := by
  rw [← BitVec.toNat_inj, BitVec.extractLsb'_toNat, Nat.shiftRight_eq_div_pow, BitVec.ofNat_eq_ofNat,
    BitVec.toNat_zero]

end Sys2Proof

namespace Sys2Proof.Machine

/-- STATUS = FAULT + DVALID*2 + FCAUSE*2^4 + KEYMASK*2^8 + FADDR*2^16 + FDIR*2^28: each field begins above the end of the
one below it (R27). -/
theorem State.statusWord_toNat (s : State) :
    s.statusWord.toNat = s.fault.toNat + s.dvalid.toNat * 2 ^ 1 + s.fcause.toNat * 2 ^ 4 + s.keymask.toNat * 2 ^ 8
      + s.faddr.toNat * 2 ^ 16 + s.fdir.toNat * 2 ^ 28 := by
  have hfault : ((BitVec.ofBool s.fault).setWidth 32).toNat = (BitVec.ofBool s.fault).toNat :=
    BitVec.toNat_setWidth_of_le (by omega)
  have hdvalid := toNat_or_field hfault (BitVec.ofBool s.dvalid) 1 (by omega) (by omega)
  have hfcause := toNat_or_field hdvalid s.fcause 4 (by omega) (by omega)
  have hkeymask := toNat_or_field hfcause s.keymask 8 (by omega) (by omega)
  have hfaddr := toNat_or_field hkeymask s.faddr 16 (by omega) (by omega)
  have hfdir := toNat_or_field hfaddr (BitVec.ofBool s.fdir) 28 (by omega) (by omega)
  simpa only [State.statusWord, BitVec.toNat_ofBool] using hfdir

/-- The bits of STATUS between its fields and above FDIR are 0 (R27, R160). -/
theorem State.statusWord_reserved (s : State) :
    s.statusWord.extractLsb' 2 2 = 0 ∧ s.statusWord.extractLsb' 12 4 = 0 ∧ s.statusWord.extractLsb' 26 2 = 0 ∧
      s.statusWord.extractLsb' 29 3 = 0 := by
  have hsum := s.statusWord_toNat
  have hfault := s.fault.toNat_lt
  have hdvalid := s.dvalid.toNat_lt
  have hfdir := s.fdir.toNat_lt
  simp only [extractLsb'_eq_zero_iff]
  exact ⟨by omega, by omega, by omega, by omega⟩

end Sys2Proof.Machine

namespace Sys2Proof

open Machine
open Laws.ReadsBack (at_register)

/-- Settles O10: the word is packed at the index of STATUS, and the read answers the sum of the fields. -/
theorem statusShowsEveryField : Obligations.StatusShowsEveryField := by
  unfold Obligations.StatusShowsEveryField
  intro d s
  exact ⟨at_register false .status d, s.statusWord, rfl, s.statusWord_toNat, s.statusWord_reserved⟩

end Sys2Proof
end

section
/-! PROOFS. Which transactions raise a cause, and what a fault entry writes (R170, R174, R175, R176, R179, R190). -/

namespace Sys2Proof

/-- An instruction is at the word index of the word it was decoded from. -/
theorem widx_of_decode {x : T43} {i : Instr} (h : decode x = .ok i) : i.widx = x.widx := by
  obtain ⟨r, hr, rfl⟩ := (decode_eq_ok_iff x i).mp h
  rw [eq_widx_of_regAt hr]
  cases x.dir with
  | true => rw [if_pos rfl, Instr.widx, encode_decodeWrite, T43.widx_pack]
  | false => rw [if_neg Bool.false_ne_true, Instr.widx, encode_decodeRead, T43.widx_pack]

end Sys2Proof

namespace Sys2Proof.Machine

variable {s t : State} {i : Instr}

/-! ### The causes -/

/-- A GO of legal length under a complete key raises nothing (R86). -/
theorem causeOf_go_complete {len : BitVec 5} {mask : BitVec 4} (hl : lenLegal len = true)
    (hk : keyComplete mask = true) : causeOf (.ok (.wrGo 0 len)) mask = 0 := by
  have hlen : ¬(len.toNat = 0 ∨ 16 < len.toNat) := by simp [← lenLegal_eq_false_iff, hl]
  have hmask : mask = 0b1111 := by simpa [keyComplete] using hk
  simp [causeOf, hlen, hmask]

/-- A legal read raises nothing (R170). -/
theorem causeOf_legal_read (mask : BitVec 4) (hw : i.isWrite = false) (hl : i.isIllegal = false) :
    causeOf (.ok i) mask = 0 := by
  cases i with
  | wrGo | wrCtrl | wrCrcData | wrCrcCtrl => exact absurd (hw.symm.trans (T43.dir_pack ..)) Bool.false_ne_true
  | _ => exact if_neg (t := 3) (ne_true_of_eq_false hl)

/-- An ill-formed transaction raises BADACC, unless it is a GO whose reserved bits are 0 (R173). -/
theorem causeOf_of_not_wellFormed (mask : BitVec 4) (h : i.wellFormed = false) (hgo : ∀ len, i ≠ .wrGo 0 len) :
    causeOf (.ok i) mask = 3 := by
  cases i with
  | wrGo rsvd len =>
    have hr : rsvd ≠ 0 := fun hr => hgo len (by rw [hr])
    exact if_pos hr
  | wrCtrl rsvd _ | wrCrcData rsvd _ | wrCrcCtrl rsvd _ =>
    have hr : rsvd ≠ 0 := by simpa [Instr.wellFormed] using h
    exact if_pos hr
  | illegalRdKey | illegalWrDout | illegalRdGo | illegalRdCtrl | illegalRdCrcData => rfl
  | illegalWrCrcAcc | illegalWrCrcResult | illegalRdCrcCtrl | illegalWrStatus | illegalWrCrcTable => rfl
  | _ => cases h

/-! ### What a running block makes of them -/

/-- Fault entry by a transaction of direction d at index a, which returns 0 if it is a read (R174). -/
def State.enterFault (c : BitVec 4) (d : Bool) (a : Widx) (s : State) : State :=
  { s with
    fault := true, fcause := c, fdir := d, faddr := a, responses := if d then s.responses else s.responses ++ [0] }

/-- From s with FAULT = 0 a transaction of direction d at index a, raising c, leads to t: it enters its fault, or it
raises nothing and leaves the record. -/
structure FaultsAs (c : BitVec 4) (d : Bool) (a : Widx) (s t : State) : Prop where
  entered : c ≠ 0 → t = s.enterFault c d a
  quiet : c = 0 → t.fault = false ∧ t.fcause = s.fcause ∧ t.fdir = s.fdir ∧ t.faddr = s.faddr

theorem faultsAs_of_quiet {c : BitVec 4} (d : Bool) (a : Widx) (hc : c = 0)
    (h : t.fault = false ∧ t.fcause = s.fcause ∧ t.fdir = s.fdir ∧ t.faddr = s.faddr) : FaultsAs c d a s t :=
  ⟨fun hne => absurd hc hne, fun _ => h⟩

theorem faultsAs_of_entered {c : BitVec 4} {d : Bool} {a : Widx} (hc : c ≠ 0) (h : t = s.enterFault c d a) :
    FaultsAs c d a s t :=
  ⟨fun _ => h, fun h0 => absurd h0 hc⟩

theorem FaultsAs.cause_eq_zero {c : BitVec 4} {d : Bool} {a : Widx} (h : FaultsAs c d a s t) (ht : t.fault = false) :
    c = 0 := by
  by_contra hc
  rw [h.entered hc] at ht
  cases ht

/-- A GO with its reserved bits 0 whose length is illegal does not enter BADACC: BADLEN is what it enters (R176). -/
theorem not_go_of_badWritten (h : exec i s = .next (s.raiseFault .badacc true i.widx)) (hwf : i.wellFormed = false)
    (hf : s.fault = false) : ∀ len, i ≠ .wrGo 0 len := by
  rintro len rfl
  have hl : lenLegal len = false := by simpa [Instr.wellFormed, lenLegal] using hwf
  have hexec : exec (.wrGo 0 len) s = .next (s.go 0 len) := writeTxn_running _ hf
  rw [hexec, go_of_badLength s hl] at h
  have hcode : Cause.badlen.code = Cause.badacc.code := congrArg State.fcause (Host.Outcome.next.inj h)
  exact absurd hcode (by decide)

theorem isWrite_go (rsvd : BitVec 27) (len : BitVec 5) : (Instr.wrGo rsvd len).isWrite = true := T43.dir_pack ..

theorem widx_go (rsvd : BitVec 27) (len : BitVec 5) : (Instr.wrGo rsvd len).widx = 0x010 := T43.widx_pack ..

theorem exec_faultsAs (h : exec i s = .next t) (hf : s.fault = false) :
    FaultsAs (causeOf (.ok i) s.keymask) i.isWrite i.widx s t := by
  cases exec_effect h with
  | ignored _ hs | badReadHalted _ _ hs => exact absurd (hf.symm.trans hs) Bool.false_ne_true
  | keyLoaded | nonceLoaded | dinLoaded | cleared | notCleared | byteFed | crcRestarted | crcNotRestarted =>
    exact faultsAs_of_quiet _ _ rfl ⟨hf, rfl, rfl, rfl⟩
  | answered v hw hl => exact faultsAs_of_quiet _ _ (causeOf_legal_read _ hw hl) ⟨hf, rfl, rfl, rfl⟩
  | blockDone len _ hl hk => exact faultsAs_of_quiet _ _ (causeOf_go_complete hl hk) ⟨hf, rfl, rfl, rfl⟩
  | badLength len _ hl =>
    rw [causeOf_go_badLength _ hl, isWrite_go, widx_go]
    exact faultsAs_of_entered (by decide) rfl
  | badKey len _ hl hk =>
    rw [causeOf_go_badKey hl hk, isWrite_go, widx_go]
    exact faultsAs_of_entered (by decide) rfl
  | badWritten hw hwf =>
    rw [causeOf_of_not_wellFormed _ hwf (not_go_of_badWritten h hwf hf), hw]
    exact faultsAs_of_entered (by decide) rfl
  | badReadRunning hw hill =>
    have hgo (len : BitVec 5) : i ≠ .wrGo 0 len := ne_of_isWrite hw (T43.dir_pack ..)
    rw [causeOf_of_not_wellFormed _ (wellFormed_of_isIllegal hill) hgo, hw]
    exact faultsAs_of_entered (by decide) rfl

theorem runTxn_faultsAs {x : T43} (h : runTxn x s = .next t) (hf : s.fault = false) :
    FaultsAs (causeOf (decode x) s.keymask) x.dir x.widx s t := by
  obtain ⟨i, hd, hi⟩ | ⟨d, w, hd, hr⟩ := runTxn_cases h
  · rw [hd, ← isWrite_of_decode hd, ← widx_of_decode hd]
    exact exec_faultsAs hi hf
  · obtain ⟨rfl, rfl, -⟩ := decode_error hd
    rw [takeReserved_running _ _ hf] at hr
    rw [hd]
    exact faultsAs_of_entered (by decide : (3 : BitVec 4) ≠ 0) (Host.Outcome.next.inj hr).symm

/-! ### The halted block -/

theorem exec_decodeWrite_halted (d : Word) (r : Reg) (hf : s.fault = true) : exec (decodeWrite d r) s = .next s := by
  cases r <;> exact writeTxn_halted _ hf

theorem exec_illegal_read_halted {r : Reg} (h : (decodeRead r).isIllegal = true) (hf : s.fault = true) :
    exec (decodeRead r) s = .next (s.respond 0) := by
  cases r with
  | key | go | ctrl | crcData | crcCtrl => exact badRead_halted _ hf
  | _ => cases h

/-- A halted block ignores every write (R66, R175). -/
theorem runTxn_write_halted {x : T43} (hx : x.dir = true) (hf : s.fault = true) : runTxn x s = .next s := by
  cases hr : regAt x.widx with
  | some r =>
    have hd : decode x = .ok (decodeWrite x.wdata r) := (decode_eq_ok_iff x _).mpr ⟨r, hr, by rw [if_pos hx]⟩
    rw [runTxn_of_decode hd, exec_decodeWrite_halted _ r hf]
  | none =>
    rw [runTxn_of_error ((decode_eq_error_iff x _).mpr ⟨rfl, hr⟩), hx]
    exact badWrite_halted _ hf

/-- A halted block answers 0 to every read that is not a legal one (R66, R175). -/
theorem runTxn_illegal_read_halted {x : T43} (hx : x.dir = false)
    (hill : ∀ i, decode x = .ok i → i.isIllegal = true) (hf : s.fault = true) : runTxn x s = .next (s.respond 0) := by
  cases hr : regAt x.widx with
  | some r =>
    have hd : decode x = .ok (decodeRead r) := (decode_eq_ok_iff x _).mpr ⟨r, hr, by rw [hx]; rfl⟩
    rw [runTxn_of_decode hd, exec_illegal_read_halted (hill _ hd) hf]
  | none =>
    rw [runTxn_of_error ((decode_eq_error_iff x _).mpr ⟨rfl, hr⟩), hx]
    exact badRead_halted _ hf

/-- No transaction writes the record of a halted block (R175, R179). -/
theorem runTxn_record_of_halted {x : T43} (hx : runTxn x s = .next t) (hf : s.fault = true) :
    t.fault = s.fault ∧ t.fcause = s.fcause ∧ t.fdir = s.fdir ∧ t.faddr = s.faddr := by
  by_contra h
  simp only [not_and_or] at h
  obtain ⟨hs, -⟩ := runTxn_record_writers hx h
  exact absurd (hs.symm.trans hf) Bool.false_ne_true

end Sys2Proof.Machine

namespace Sys2Proof

open Machine

/-- Settles O13: the halted block ignores a write at any index, answers 0 to a read that is not legal, and answers a
legal read as ever. -/
theorem haltedBlockIgnoresWritesAndAnswersReads : Obligations.HaltedBlockIgnoresWritesAndAnswersReads := by
  unfold Obligations.HaltedBlockIgnoresWritesAndAnswersReads
  intro x i idx s hf
  refine ⟨fun hx => runTxn_write_halted hx hf, fun hx hill => runTxn_illegal_read_halted hx hill hf, rfl, rfl, rfl,
    rfl, ?_, rfl, rfl⟩
  rw [← crcFinish_eq_not]
  rfl

/-- Settles O14: a transaction that leaves FAULT = 1 raised a cause, and with a cause raised it enters the fault. -/
theorem faultsArePrecise : Obligations.FaultsArePrecise := by
  unfold Obligations.FaultsArePrecise
  intro x s t hf hx ht
  obtain ⟨entered, quiet⟩ := runTxn_faultsAs hx hf
  have hc : causeOf (decode x) s.keymask ≠ 0 := fun hc => by
    obtain ⟨htf, -⟩ := quiet hc
    exact Bool.false_ne_true (htf.symm.trans ht)
  rw [entered hc]
  exact ⟨hc, rfl, rfl⟩

/-- Settles O15: every transaction answers, and its cause decides whether it enters a fault. -/
theorem everyTransactionRaisesItsCause : Obligations.EveryTransactionRaisesItsCause := by
  unfold Obligations.EveryTransactionRaisesItsCause
  intro x s hf
  obtain ⟨t, ht⟩ := runTxn_answers x s
  obtain ⟨entered, quiet⟩ := runTxn_faultsAs ht hf
  refine ⟨t, ht, quiet, fun hc => ?_⟩
  rw [entered hc]
  exact ⟨rfl, rfl, rfl, rfl⟩

/-- Settles O17: a step is idle, serves a reset, or runs a transaction, which writes no record of a halted block. -/
theorem onlyResetEndsAFault : Obligations.OnlyResetEndsAFault := by
  unfold Obligations.OnlyResetEndsAFault
  intro s t hf hs
  obtain ⟨-, rfl⟩ | ⟨rest, hp, -⟩ | ⟨x, rest, -, hx⟩ := step_cases hs
  · exact .inl ⟨hf, rfl, rfl, rfl⟩
  · exact .inr ⟨rest, hp⟩
  · obtain ⟨hfault, hrecord⟩ := runTxn_record_of_halted hx hf
    exact .inl ⟨hfault.trans hf, hrecord⟩

/-- Settles O18: the reset values, that no transaction ends a fault, and the reset event served by a step. -/
theorem resetSetsEveryElement : Obligations.ResetSetsEveryElement := by
  unfold Obligations.ResetSetsEveryElement
  refine ⟨⟨rfl, rfl, rfl, rfl, rfl, rfl, rfl, rfl, rfl, rfl, rfl⟩, ?_, fun rest s hp => ?_⟩
  · exact fun x s t hf hx => runTxn_stays_halted hx hf
  · exact ⟨_, step_reset hp, rfl, rfl, rfl, rfl, rfl, rfl, rfl, rfl, rfl, rfl, rfl, rfl, rfl⟩

/-- A register group of zeros has a zero at every index. -/
theorem Quad.get_zeros (i : Fin 4) : (⟨0, 0, 0, 0⟩ : Quad).get i = 0 := by
  fin_cases i <;> rfl

/-- Settles O19: every legal read answers what its register holds, and after reset that is zero. -/
theorem readsAfterResetAreZero : Obligations.ReadsAfterResetAreZero := by
  unfold Obligations.ReadsAfterResetAreZero
  intro i
  have hread (v : Word) (h : v = 0) : readTxn v State.reset = .next { State.reset with responses := [0] } := by
    rw [h]
    rfl
  exact ⟨hread _ rfl, hread _ (by decide), hread _ (Quad.get_zeros i), hread _ (Quad.get_zeros i),
    hread _ (Quad.get_zeros i)⟩

end Sys2Proof
end

section
/-! PROOFS. AES-128: the key schedule word by word, and the cipher as a bijection of a finite set (R127, R131). -/

namespace Sys2Proof

/-! ### The key schedule -/

theorem scheduleWord_mk (k : Quad) (n : Nat) (j : Fin 4) : scheduleWord k (4 * n + j.val) = (roundKey k n).get j := by
  have hdiv : (4 * n + j.val) / 4 = n := by omega
  have hmod : (⟨(4 * n + j.val) % 4, by omega⟩ : Fin 4) = j := Fin.ext (by simp)
  rw [scheduleWord, hdiv, hmod]

/-- A byte put above 24 zero bits is the byte shifted there. -/
theorem append_zeros_eq_shiftLeft (b : Byte) : b ++ 0#24 = b.setWidth 32 <<< 24 := by
  refine BitVec.eq_of_toNat_eq ?_
  rw [toNat_append_eq_add, BitVec.toNat_shiftLeft, BitVec.toNat_setWidth_of_le (by omega), Nat.shiftLeft_eq,
    BitVec.toNat_zero]
  omega

/-- The first of the four words after a round key (R127). -/
theorem roundKey_succ_first (k : Quad) (n : Nat) :
    (roundKey k (n + 1)).get 0 = (roundKey k n).get 0 ^^^
      (subWord (rotWord ((roundKey k n).get 3)) ^^^ ((roundConstants.getD n 0).setWidth 32 <<< 24)) := by
  rw [← append_zeros_eq_shiftLeft]
  rfl

/-- Each of the others is the word four before it XOR the word before it (R127). -/
theorem roundKey_succ_next (k : Quad) (n : Nat) (j : Fin 3) :
    (roundKey k (n + 1)).get j.succ = (roundKey k n).get j.succ ^^^ (roundKey k (n + 1)).get j.castSucc := by
  fin_cases j <;> rfl

/-- Settles O42: word 4n+j of the schedule is word j of round key n, and each round key is computed from the one before
it. -/
theorem keyScheduleObeysTheRecurrence : Obligations.KeyScheduleObeysTheRecurrence := by
  unfold Obligations.KeyScheduleObeysTheRecurrence
  intro k
  refine ⟨fun i => ?_, fun i hi _ => ?_⟩
  · have hword := scheduleWord_mk k 0 i
    rwa [Nat.mul_zero, Nat.zero_add] at hword
  · obtain ⟨n, j, rfl⟩ : ∃ (n : Nat) (j : Fin 4), i = 4 * (n + 1) + j.val :=
      ⟨i / 4 - 1, ⟨i % 4, by omega⟩, by simp only; omega⟩
    have hback : 4 * (n + 1) + j.val - 4 = 4 * n + j.val := by omega
    rw [hback, scheduleWord_mk, scheduleWord_mk]
    cases j using Fin.cases with
    | zero =>
      have hprev : 4 * (n + 1) + (0 : Fin 4).val - 1 = 4 * n + (3 : Fin 4).val := by omega
      have hround : (4 * (n + 1) + (0 : Fin 4).val) / 4 - 1 = n := by omega
      rw [if_pos (by omega), hprev, hround, scheduleWord_mk]
      exact roundKey_succ_first k n
    | succ j =>
      have hprev : 4 * (n + 1) + j.succ.val - 1 = 4 * (n + 1) + j.castSucc.val := by simp
      rw [if_neg (by simp; omega), hprev, scheduleWord_mk]
      exact roundKey_succ_next k n j

/-! ### The cipher as a bijection -/

theorem Four.finite {α : Type} [Finite α] : Finite (Four α) :=
  Finite.of_injective Four.get fun _ _ h => Four.ext_get (congrFun h)

/-- Settles O43: the cipher is injective, and there are finitely many blocks. -/
theorem aesIsABijection : Obligations.AesIsABijection := by
  unfold Obligations.AesIsABijection
  intro k
  have hcol : Finite Col := Four.finite
  have hblk : Finite Blk := Four.finite
  exact Finite.injective_iff_bijective.mp (aes128Enc_injective k)

end Sys2Proof
end

section
/-! PROOFS. The CRC unit: what its transactions do to CRC_ACC and what they answer, one at a time and in a message among
others (R140 to R147, R150, R203). -/

namespace Sys2Proof.Machine

/-! ### The byte step and the laws of CRC32 -/

/-- The byte step as arithmetic on numbers (R141, R162). -/
theorem crcStep_eq_arith (table : Byte → Word) (acc : Word) (b : Byte) :
    crcStep table acc b =
      BitVec.ofNat 32 (acc.toNat * 2 ^ 8 % 2 ^ 32) ^^^ table (BitVec.ofNat 8 (acc.toNat / 2 ^ 24) ^^^ b) := by
  have hshift : acc <<< 8 = BitVec.ofNat 32 (acc.toNat * 2 ^ 8 % 2 ^ 32) := by
    refine BitVec.eq_of_toNat_eq ?_
    rw [BitVec.toNat_shiftLeft, Nat.shiftLeft_eq, BitVec.toNat_ofNat, Nat.mod_mod]
  have hindex : acc.extractLsb' 24 8 = BitVec.ofNat 8 (acc.toNat / 2 ^ 24) := by
    rw [BitVec.extractLsb', Nat.shiftRight_eq_div_pow]
  rw [crcStep, hshift, hindex]

/-- The final complement as arithmetic on numbers (R143, R162). -/
theorem crcFinish_eq_arith (acc : Word) : crcFinish acc = BitVec.ofNat 32 (2 ^ 32 - 1 - acc.toNat) := by
  refine BitVec.eq_of_toNat_eq ?_
  have hacc := acc.isLt
  rw [crcFinish_eq_not, BitVec.toNat_not, BitVec.toNat_ofNat]
  omega

/-- The accumulator behind a CRC32 is the complement of it. -/
theorem not_crc32 (table : Byte → Word) (data : List Byte) :
    ~~~ (crc32 table data) = data.foldl (crcStep table) Config.crcInit := by
  rw [crc32, crcFinish_eq_not, BitVec.not_not]

/-- Each byte looks one entry of the table up, so tables that agree on those entries give the same accumulator. -/
theorem exists_entries_used (table : Byte → Word) (data : List Byte) (acc : Word) :
    ∃ used : List Byte, used.length ≤ data.length ∧
      ∀ table' : Byte → Word, (∀ i ∈ used, table' i = table i) →
        data.foldl (crcStep table') acc = data.foldl (crcStep table) acc := by
  induction data generalizing acc with
  | nil => exact ⟨[], le_rfl, fun _ _ => rfl⟩
  | cons b data ih =>
    obtain ⟨used, hlen, hused⟩ := ih (crcStep table acc b)
    refine ⟨(acc.extractLsb' 24 8 ^^^ b) :: used, Nat.succ_le_succ hlen, fun table' h => ?_⟩
    obtain ⟨hentry, hrest⟩ := List.forall_mem_cons.mp h
    have hstep : crcStep table' acc b = crcStep table acc b := congrArg (acc <<< 8 ^^^ ·) hentry
    rw [List.foldl_cons, List.foldl_cons, hstep]
    exact hused table' hrest

/-! ### What an instruction of the CRC unit does -/

/-- CRC_ACC after a well-formed instruction of the CRC unit, from what it was before (R140, R141). -/
def crcNext (acc : Word) : Instr → Word
  | .wrCrcData _ b => crcStep Config.crcTable acc b
  | .wrCrcCtrl _ true => Config.crcInit
  | _ => acc

/-- What a well-formed instruction of the CRC unit answers, from what CRC_ACC was before (R142, R143, R144). -/
def crcAnswer (acc : Word) : Instr → List Word
  | .rdCrcAcc => [acc]
  | .rdCrcResult => [crcFinish acc]
  | .rdCrcTable idx => [Config.crcTable idx]
  | _ => []

/-- The answers of instructions of the CRC unit, one after the other, the first with CRC_ACC = acc. -/
def crcAnswers (acc : Word) : List Instr → List Word
  | [] => []
  | j :: js => crcAnswer acc j ++ crcAnswers (crcNext acc j) js

/-- The well-formed instructions of the CRC unit. -/
def IsCrc (j : Instr) : Prop := isCrcUnit j = true ∧ j.WellFormed

variable {s t u : State}

/-- With FAULT = 0 a well-formed instruction of the CRC unit looks at nothing but CRC_ACC, and writes nothing else. -/
theorem exec_crc {j : Instr} (hj : IsCrc j) (hf : s.fault = false) :
    exec j s =
      .next { s with crcAcc := crcNext s.crcAcc j, responses := s.responses ++ crcAnswer s.crcAcc j } := by
  obtain ⟨hunit, hwf⟩ := hj
  have hwrite (f : State → State) (acc : Word) (h : f s = { s with crcAcc := acc }) :
      writeTxn f s = .next { s with crcAcc := acc, responses := s.responses ++ [] } := by
    rw [writeTxn_running f hf, h, List.append_nil]
  cases j with
  | wrCrcData rsvd b =>
    obtain rfl : rsvd = 0 := by simpa [Instr.WellFormed, Instr.wellFormed] using hwf
    exact hwrite _ _ rfl
  | wrCrcCtrl rsvd init =>
    obtain rfl : rsvd = 0 := by simpa [Instr.WellFormed, Instr.wellFormed] using hwf
    cases init with
    | true => exact hwrite _ _ rfl
    | false => exact hwrite _ _ rfl
  | rdCrcAcc | rdCrcResult | rdCrcTable => rfl
  | _ => cases hunit

/-- An instruction of the CRC unit after which FAULT = 0 was well formed, if FAULT was 0 before it. -/
theorem isCrc_of_running {j : Instr} (hj : isCrcUnit j = true) (h : exec j s = .next t) (hs : s.fault = false)
    (ht : t.fault = false) : IsCrc j := by
  refine ⟨hj, by_contra fun hwf => ?_⟩
  have hc := (exec_faultsAs h hs).cause_eq_zero ht
  exact causeOf_ne_zero_of_not_wellFormed _ (eq_false_of_ne_true hwf) hc

/-- After an instruction FAULT is 0 only if it was 0 before (R175). -/
theorem running_of_exec {i : Instr} (h : exec i s = .next t) (ht : t.fault = false) : s.fault = false := by
  by_contra hs
  obtain ⟨hf, -⟩ := (exec_effect h).record_writers (.inl fun e => hs (e.symm.trans ht))
  exact hs hf

/-! ### The two units (R203) -/

theorem crcAcc_eq_of_exec_cipher {i : Instr} (hi : isCipherUnit i = true) (h : exec i s = .next t) :
    t.crcAcc = s.crcAcc := by
  by_contra hne
  obtain ⟨b, rfl⟩ | rfl := (exec_effect h).crcAcc_writers hne <;> cases hi

/-- An instruction of the CRC unit leaves the cipher unit's registers, faulting or not. -/
theorem Effect.cipher_frame {j : Instr} (e : Effect s j t) (hj : isCrcUnit j = true) :
    t.key = s.key ∧ t.keymask = s.keymask ∧ t.nonce = s.nonce ∧ t.din = s.din ∧ t.dout = s.dout ∧
      t.dvalid = s.dvalid := by
  cases e with
  | keyLoaded | nonceLoaded | dinLoaded | blockDone | cleared => cases hj
  | _ => exact ⟨rfl, rfl, rfl, rfl, rfl, rfl⟩

/-- An instruction of the cipher unit does and answers the same whatever CRC_ACC is and whatever was answered before. -/
theorem exec_cipher_elsewhere {i : Instr} (hi : isCipherUnit i = true) (h : exec i s = .next t) :
    ∃ ans, t.responses = s.responses ++ ans ∧ (ans.length = if i.isWrite then 0 else 1) ∧
      ∀ c r, exec i { s with crcAcc := c, responses := r } = .next { t with crcAcc := c, responses := r ++ ans } := by
  obtain ⟨ans, hans, hlen⟩ := (exec_effect h).answers
  refine ⟨ans, hans, hlen, fun c r => ?_⟩
  have hstart : AnsweredAlike s.responses r s { s with crcAcc := c, responses := r } :=
    ⟨⟨c, s.pending, r, rfl⟩, [], (List.append_nil _).symm, (List.append_nil _).symm⟩
  obtain ⟨_, hu, ⟨c', p', r', rfl⟩, ans', hans', hr⟩ := (hstart.exec_alike hi).of_next h
  obtain rfl : ans = ans' := List.append_cancel_left (hans.symm.trans hans')
  obtain rfl : c' = c := crcAcc_eq_of_exec_cipher hi hu
  have hp : p' = t.pending := (exec_effect hu).pending_eq.trans (exec_effect h).pending_eq.symm
  obtain rfl : r' = r ++ ans := hr
  rw [hu, hp]

theorem crcAnswer_of_write {j : Instr} (hw : j.isWrite = true) (acc : Word) : crcAnswer acc j = [] := by
  cases j with
  | rdCrcAcc | rdCrcResult | rdCrcTable => exact absurd ((T43.dir_pack ..).symm.trans hw) Bool.false_ne_true
  | _ => rfl

/-- An instruction of each unit, the CRC unit's after the other's, may change places unless both are reads. -/
theorem exec_swap {i j : Instr} {a b : State} (hi : isCipherUnit i = true) (hj : isCrcUnit j = true)
    (hwrite : i.isWrite = true ∨ j.isWrite = true) (hs : s.fault = false) (ha : exec i s = .next a)
    (hb : exec j a = .next b) (hbf : b.fault = false) : ∃ c, exec j s = .next c ∧ exec i c = .next b := by
  have haf : a.fault = false := running_of_exec hb hbf
  have hcrc : IsCrc j := isCrc_of_running hj hb haf hbf
  obtain ⟨ans, hans, hlen, helse⟩ := exec_cipher_elsewhere hi ha
  have hswap : ans ++ crcAnswer s.crcAcc j = crcAnswer s.crcAcc j ++ ans := by
    obtain hw | hw := hwrite
    · obtain rfl : ans = [] := List.eq_nil_of_length_eq_zero (by rw [hlen, if_pos hw])
      exact (List.append_nil _).symm
    · rw [crcAnswer_of_write hw, List.append_nil, List.nil_append]
  refine ⟨_, exec_crc hcrc hs, (helse _ _).trans ?_⟩
  rw [← hb, exec_crc hcrc haf, hans, crcAcc_eq_of_exec_cipher hi ha, List.append_assoc, List.append_assoc, hswap]

/-! ### Messages -/

/-- The instructions of a CRC message after its first line. -/
def crcBytes (data : List Byte) : List Instr := data.map (.wrCrcData 0) ++ [.rdCrcResult]

/-- The instructions of a CRC message (R146). -/
def crcMessage (data : List Byte) : List Instr := .wrCrcCtrl 0 true :: crcBytes data

theorem isCrc_of_mem_crcMessage {data : List Byte} : ∀ j ∈ crcMessage data, IsCrc j := by
  intro j hj
  simp only [crcMessage, crcBytes, List.mem_cons, List.mem_append, List.mem_map, List.not_mem_nil, or_false] at hj
  obtain rfl | ⟨b, -, rfl⟩ | rfl := hj <;> exact ⟨rfl, rfl⟩

theorem assemble_crcData (b : Byte) :
    AsmLine.assemble (.wr (.reg .crcData) (b.setWidth 32)) = encode (.wrCrcData 0 b) := by
  have hdata : b.setWidth 32 = 0#24 ++ b := by
    refine BitVec.eq_of_toNat_eq ?_
    rw [toNat_append_eq_add, BitVec.toNat_setWidth_of_le (by omega), BitVec.toNat_zero, Nat.zero_mul, Nat.zero_add]
  rw [hdata]
  rfl

theorem words_crcBytes (data : List Byte) :
    Asm.words (data.flatMap Asm.crcb ++ Asm.crcres) = (crcBytes data).map encode := by
  have hbytes : (data.flatMap Asm.crcb).map AsmLine.assemble = (data.map (.wrCrcData 0)).map encode := by
    induction data with
    | nil => rfl
    | cons b data ih => exact congrArg₂ List.cons (assemble_crcData b) ih
  rw [Asm.words, crcBytes, List.map_append, List.map_append, hbytes]
  rfl

theorem words_crcmsg (data : List Byte) : Asm.words (Asm.crcmsg data) = (crcMessage data).map encode := by
  rw [Asm.crcmsg, List.append_assoc]
  exact congrArg (encode (.wrCrcCtrl 0 true) :: ·) (words_crcBytes data)

theorem length_crcBytes (data : List Byte) : (crcBytes data).length = data.length + 1 := by
  rw [crcBytes, List.length_append, List.length_map, List.length_singleton]

/-- The one read of a message answers the complement of the accumulator its bytes lead to. -/
theorem crcAnswers_crcBytes (data : List Byte) (acc : Word) :
    crcAnswers acc (crcBytes data) = [crcFinish (data.foldl (crcStep Config.crcTable) acc)] := by
  induction data generalizing acc with
  | nil => rfl
  | cons b data ih => exact ih (crcStep Config.crcTable acc b)

theorem crcAnswers_crcMessage (data : List Byte) (acc : Word) :
    crcAnswers acc (crcMessage data) = [crc32 Config.crcTable data] :=
  crcAnswers_crcBytes data Config.crcInit

/-- Instructions of the CRC unit, run one after the other, answer what they say and leave all but CRC_ACC. -/
theorem run_crc {js : List Instr} {rest : List PortEvent} (hjs : ∀ j ∈ js, IsCrc j)
    (hp : s.pending = (js.map encode).map .txn ++ rest) (hf : s.fault = false) :
    Sys2Proof.core.run js.length s =
      .next { s with
        crcAcc := js.foldl crcNext s.crcAcc, responses := s.responses ++ crcAnswers s.crcAcc js, pending := rest } := by
  induction js generalizing s with
  | nil =>
    obtain rfl : s.pending = rest := hp
    rw [crcAnswers, List.append_nil]
    rfl
  | cons j js ih =>
    obtain ⟨hj, hjs⟩ := List.forall_mem_cons.mp hjs
    refine (run_succ _ ((step_of_decode hp (decode_encode j)).trans (exec_crc hj hf))).trans ?_
    refine (ih (s := { s with crcAcc := _, responses := _, pending := _ }) hjs rfl hf).trans ?_
    rw [crcAnswers, List.append_assoc]
    rfl

/-- Every run answers. -/
theorem run_answers (n : Nat) (s : State) : ∃ t, Sys2Proof.core.run n s = .next t := by
  induction n generalizing s with
  | zero => exact ⟨s, rfl⟩
  | succ n ih =>
    obtain ⟨u, hu⟩ := step_answers s
    rw [run_succ n hu]
    exact ih u

/-! ### A message among other transactions -/

/-- Neither the cipher unit's transactions nor legal reads write CRC_ACC. -/
theorem runTxn_crcBystander {x : T43} (hx : isCrcBystander x = true) (h : runTxn x s = .next t) :
    t.crcAcc = s.crcAcc := by
  unfold isCrcBystander at hx
  by_contra hne
  obtain ⟨i, hd, hi⟩ | ⟨d, w, hd, -⟩ := runTxn_cases h
  · simp only [hd, Bool.and_eq_true, Bool.or_eq_true, Bool.not_eq_true'] at hx
    obtain ⟨-, hunit | hread⟩ := hx
    · exact hne (crcAcc_eq_of_exec_cipher hunit hi)
    · obtain ⟨b, rfl⟩ | rfl := (exec_effect hi).crcAcc_writers hne <;>
        exact absurd (hread.symm.trans (T43.dir_pack ..)) Bool.false_ne_true
  · simp only [hd, Bool.false_eq_true] at hx

theorem taggedWords_cons (z : Bool × T43) (zs : List (Bool × T43)) :
    taggedWords (z :: zs) = if z.1 then z.2 :: taggedWords zs else taggedWords zs := by
  cases htag : z.1 <;> simp [taggedWords, htag]

/-- The first transaction of a mixed list is the first of js and does what that does, or leaves CRC_ACC and js. -/
theorem advance_mixed_crc {z : Bool × T43} {zs : List (Bool × T43)} {js : List Instr} {ans : List Word}
    (hwords : taggedWords (z :: zs) = js.map encode) (hjs : ∀ j ∈ js, IsCrc j)
    (hother : z.1 = false → isCrcBystander z.2 = true) (hs : s.fault = false) (hu : runTxn z.2 s = .next u)
    (hans : u.responses = s.responses ++ ans) :
    ∃ js', taggedWords zs = js'.map encode ∧ (∀ j ∈ js', IsCrc j) ∧
      crcAnswers s.crcAcc js = (if z.1 then ans else []) ++ crcAnswers u.crcAcc js' := by
  rw [taggedWords_cons] at hwords
  cases htag : z.1 with
  | true =>
    rw [htag, if_pos rfl] at hwords
    obtain ⟨j, js', rfl, hz, hwords'⟩ := List.map_eq_cons_iff.mp hwords.symm
    obtain ⟨hj, hjs'⟩ := List.forall_mem_cons.mp hjs
    rw [← hz, runTxn_of_decode (decode_encode j), exec_crc hj hs] at hu
    cases hu
    obtain rfl : crcAnswer s.crcAcc j = ans := List.append_cancel_left hans
    exact ⟨js', hwords'.symm, hjs', rfl⟩
  | false =>
    rw [htag, if_neg Bool.false_ne_true] at hwords
    refine ⟨js, hwords, hjs, ?_⟩
    rw [runTxn_crcBystander (hother htag) hu]
    rfl

/-- A mixed list whose tagged transactions are js and whose others leave CRC_ACC: if it ends with FAULT = 0, its tagged
reads answered what those of js answer alone. -/
theorem run_mixed_crc {zs : List (Bool × T43)} {js : List Instr} (hwords : taggedWords zs = js.map encode)
    (hjs : ∀ j ∈ js, IsCrc j) (hother : ∀ z ∈ zs, z.1 = false → isCrcBystander z.2 = true)
    (hp : s.pending = (zs.map fun z => z.2).map .txn) (hrun : Sys2Proof.core.run zs.length s = .next t)
    (hf : t.fault = false) :
    ∃ rs, t.responses = s.responses ++ rs ∧ rs.length = (zs.filter fun z => !z.2.dir).length ∧
      taggedAnswers zs rs = crcAnswers s.crcAcc js := by
  induction zs generalizing s js with
  | nil =>
    obtain rfl : js = [] := List.map_eq_nil_iff.mp hwords.symm
    cases hrun
    exact ⟨[], (List.append_nil _).symm, rfl, rfl⟩
  | cons z zs ih =>
    obtain ⟨hz, hother⟩ := List.forall_mem_cons.mp hother
    obtain ⟨u, hu⟩ := runTxn_answers z.2 { s with pending := (zs.map fun z => z.2).map .txn }
    obtain ⟨ans, hans, hlen⟩ := runTxn_responses hu
    have hstep : step s = .next u := (step_txn hp).trans hu
    have hsf : s.fault = false := running_of_run hp (by simpa using hrun) hf
    obtain ⟨js', hwords', hjs', hsplit⟩ :=
      advance_mixed_crc (s := { s with pending := (zs.map fun z => z.2).map .txn }) hwords hjs hz hsf hu hans
    obtain ⟨rs, hrs, hcount, htag⟩ :=
      ih hwords' hjs' hother (runTxn_pending hu) ((run_succ _ hstep).symm.trans hrun)
    refine ⟨ans ++ rs, ?_, ?_, ?_⟩
    · rw [hrs, hans, List.append_assoc]
    · rw [List.length_append, hlen, hcount, length_reads_cons]
    · rw [taggedAnswers_cons _ _ _ hlen, htag, hsplit]

end Sys2Proof.Machine

namespace Sys2Proof

open Machine
open Laws.ReadsBack (at_register)

/-- Settles O7: the write tests its reserved bits, and then restarts the accumulator or leaves the state. -/
theorem crcCtrlInitialisesTheAccumulator : Obligations.CrcCtrlInitialisesTheAccumulator := by
  unfold Obligations.CrcCtrlInitialisesTheAccumulator
  intro rsvd init s hf
  have hexec : exec (.wrCrcCtrl rsvd init) s = .next (s.crcCtrl rsvd init) := writeTxn_running _ hf
  refine ⟨at_register true .crcCtrl, fun hr => ?_, ?_, ?_⟩
  · rw [hexec, State.crcCtrl, if_pos hr]
    rfl
  · rintro rfl rfl
    exact hexec
  · rintro rfl rfl
    exact hexec

/-- Settles O8: the write tests its reserved bits, and then takes the byte step, which is arithmetic on numbers. -/
theorem crcDataFeedsOneByte : Obligations.CrcDataFeedsOneByte := by
  unfold Obligations.CrcDataFeedsOneByte
  intro rsvd b s hf
  have hexec : exec (.wrCrcData rsvd b) s = .next (s.crcData rsvd b) := writeTxn_running _ hf
  refine ⟨at_register true .crcData, fun hr => ?_, ?_⟩
  · rw [hexec, State.crcData, if_pos hr]
    rfl
  · rintro rfl
    rw [hexec, ← crcStep_eq_arith]
    rfl

/-- Settles O9: each word is packed at its register's index, and a legal read answers its register in every state. -/
theorem crcReadsAnswerAccumulatorResultAndTable : Obligations.CrcReadsAnswerAccumulatorResultAndTable := by
  unfold Obligations.CrcReadsAnswerAccumulatorResultAndTable
  intro idx d s
  refine ⟨at_register false .crcAcc d, at_register false .crcResult d, at_register false (.crcTable idx) d, rfl, ?_,
    rfl⟩
  rw [← crcFinish_eq_arith]
  rfl

/-- Settles O33: each unit's instructions leave the other's registers and do the same whatever these hold. -/
theorem theUnitsDoNotDisturbEachOther : Obligations.TheUnitsDoNotDisturbEachOther := by
  unfold Obligations.TheUnitsDoNotDisturbEachOther
  exact ⟨fun i s t hi h => crcAcc_eq_of_exec_cipher hi h, fun j s t hj h => (exec_effect h).cipher_frame hj,
    fun i j s a b hi hj hw hs ha hb hbf => exec_swap hi hj hw hs ha hb hbf⟩

/-- Settles O51: the lines of the sequence are instructions of the CRC unit, and their one read answers CRC32. -/
theorem crcDriverSequenceComputesCrc : Obligations.CrcDriverSequenceComputesCrc := by
  unfold Obligations.CrcDriverSequenceComputesCrc
  intro data s hf hp
  constructor
  · rw [words_crcmsg]
    have hrun := run_crc isCrc_of_mem_crcMessage (issue_pending_of_idle hp ((crcMessage data).map encode)) hf
    rw [crcAnswers_crcMessage, crcMessage, List.length_cons, length_crcBytes] at hrun
    exact ⟨_, hrun, rfl, hp ▸ rfl⟩
  · intro hacc
    rw [words_crcBytes]
    have hcrc (j : Instr) (hj : j ∈ crcBytes data) : IsCrc j := isCrc_of_mem_crcMessage j (List.mem_cons_of_mem _ hj)
    have hrun := run_crc hcrc (issue_pending_of_idle hp ((crcBytes data).map encode)) hf
    rw [crcAnswers_crcBytes, length_crcBytes, issue_crcAcc, hacc] at hrun
    exact ⟨_, hrun, rfl⟩

/-- Settles O52: the transactions in between leave CRC_ACC, so the tagged ones answer what they answer alone. -/
theorem crcMessageMayBeInterleaved : Obligations.CrcMessageMayBeInterleaved := by
  unfold Obligations.CrcMessageMayBeInterleaved
  intro data zs s hf hp hwords hother
  obtain ⟨t, hrun⟩ := run_answers zs.length (s.issue (zs.map fun z => z.2))
  refine ⟨t, hrun, fun htf => ?_⟩
  have hidle : (s.issue (zs.map fun z => z.2)).pending = (zs.map fun z => z.2).map .txn := by
    rw [issue_pending, hp, List.nil_append]
  obtain ⟨rs, hrs, hcount, htag⟩ :=
    run_mixed_crc (hwords.trans (words_crcmsg data)) isCrc_of_mem_crcMessage hother hidle hrun htf
  exact ⟨rs, hrs, hcount, htag.trans (crcAnswers_crcMessage data _)⟩

/-- Settles O53: CRC32 is a fold of the byte step, which looks one entry up, between two complements. -/
theorem crcLawsForEveryTable : Obligations.CrcLawsForEveryTable := by
  unfold Obligations.CrcLawsForEveryTable
  intro table data more b
  have hnone : crcFinish Config.crcInit = 0 := by decide
  refine ⟨hnone, crcFinish_eq_not _, ?_, ?_⟩
  · rw [not_crc32, not_crc32, List.foldl_append]
  · obtain ⟨used, hlen, hused⟩ := exists_entries_used table data Config.crcInit
    exact ⟨used, hlen, fun table' h => congrArg crcFinish (hused table' h)⟩

end Sys2Proof
end
